-- ==== Sys2Proof/Word.lean ====
section
/-!
DEFINITION. The widths of CPAN-CORE's values (spec/00_scope.md R6, R8). Every value is an unsigned bit vector. A byte
string of n bytes is held as its big-endian value, a bit vector of 8n bits (R10, R11), so `be` and `tobe_n` are the
identity and byte 0 is the most significant.
-/

namespace Sys2Proof

/-- A 32-bit interface register, a command word, or `PP`. -/
abbrev Word := BitVec 32

/-- A 16-byte string: a cipher block, or an address buffer. -/
abbrev Block := BitVec 128

/-- A 32-byte string: the cipher key, or the pad. -/
abbrev Key256 := BitVec 256

/-- The 64-byte secret key. -/
abbrev SecretKey := BitVec 512

end Sys2Proof
end

