-- ==== Sys2Proof/Syntax.lean ====
section
/-!
DEFINITION. The four commands of the opcode table (spec/30_encoding.md R81), each with its `LEN` field (R82).
-/

namespace Sys2Proof

/-- A decoded command. `len` is the operand byte length of R82; the field is 8 bits wide, so a well-formed
command has `len < 256` (WellFormed.lean). -/
inductive Instr where
  | keysetup (len : Nat)
  | anonV4 (len : Nat)
  | anonV6 (len : Nat)
  | anon (len : Nat)
  deriving DecidableEq, Repr

end Sys2Proof
end

