-- ==== Sys2Proof/WellFormed.lean ====
section
/-!
DEFINITION. Which commands a command word can present: `LEN` is 8 bits (spec/30_encoding.md R82, decision D33).
-/

namespace Sys2Proof

/-- The operand length of a command (30_encoding.md R82). -/
def Instr.len : Instr → Nat
  | .keysetup len => len
  | .anonV4 len => len
  | .anonV6 len => len
  | .anon len => len

/-- "`LEN` is an unsigned byte count from 0 to 255" (30_encoding.md R82): the one check. -/
def Instr.wellFormed (i : Instr) : Bool :=
  decide (i.len < 256)

end Sys2Proof
end

