-- ==== Sys2Proof/Decode.lean ====
section
/-!
DEFINITION. The command word `CMD32` (spec/30_encoding.md R80 to R85, R89): decoding, total on all 2^32 words and
rejecting by name, and the encoder.
-/

namespace Sys2Proof

/-- The concatenation `x || y` (00_scope.md R10) as a string of `k` bits, the sum of the two widths: `x` is the more
significant part. -/
def joinAs {n m : Nat} (k : Nat) (x : BitVec n) (y : BitVec m) : BitVec k :=
  (x ++ y).setWidth k

/-- Why a command word is illegal (30_encoding.md R83); every reason gives `ILLEGAL_COMMAND` (60_exceptions.md R190). -/
inductive IllegalWord where
  /-- `RES0`, bits 7:4, is not zero. -/
  | res0Nonzero
  /-- `RES1`, bits 31:16, is not zero. -/
  | res1Nonzero
  /-- `OP` is `0x0` or `0x5` to `0xF`. -/
  | reservedOp
  deriving DecidableEq, Repr

/-- `OP`, bits 3:0 (R80). -/
def opField (w : Word) : BitVec 4 := w.extractLsb' 0 4

/-- `RES0`, bits 7:4 (R80). -/
def res0Field (w : Word) : BitVec 4 := w.extractLsb' 4 4

/-- `LEN`, bits 15:8 (R80). -/
def lenField (w : Word) : BitVec 8 := w.extractLsb' 8 8

/-- `RES1`, bits 31:16 (R80). -/
def res1Field (w : Word) : BitVec 16 := w.extractLsb' 16 16

/-- The command that an `OP` selects (R81); `none` where the `OP` is reserved. -/
def commandOf (op : BitVec 4) (len : Nat) : Option Instr :=
  match op.toNat with
  | 1 => some (.keysetup len)
  | 2 => some (.anonV4 len)
  | 3 => some (.anonV6 len)
  | 4 => some (.anon len)
  | _ => none

/-- `decode` of R85. -/
def decode (w : Word) : Except IllegalWord Instr :=
  if res0Field w ≠ 0#4 then .error .res0Nonzero
  else if res1Field w ≠ 0#16 then .error .res1Nonzero
  else
    match commandOf (opField w) (lenField w).toNat with
    | some i => .ok i
    | none => .error .reservedOp

/-- The opcode of a command (R81). -/
def Instr.opcode : Instr → BitVec 4
  | .keysetup _ => 0x1#4
  | .anonV4 _ => 0x2#4
  | .anonV6 _ => 0x3#4
  | .anon _ => 0x4#4

/-- The word of a command, from the encoding string `0000000000000000LLLLLLLL0000OOOO` of R80. -/
def encode (i : Instr) : Word :=
  joinAs 32 0#16 (joinAs 16 (BitVec.ofNat 8 i.len) (joinAs 8 0#4 i.opcode))

/-- The command that the decoder reads from the `nbits` low bits of `w`, the bits above them zero. The command word is
one 32-bit value written to `CMD`, so bit 0 of the table is bit 0 of the word (R80, R88). -/
def decodeTableWord (nbits w : Nat) : Option Instr :=
  match decode (BitVec.ofNat 32 (w % 2 ^ nbits)) with
  | .ok i => some i
  | .error _ => none

end Sys2Proof
end

