-- ==== Sys2Proof/Config.lean ====
section
/-!
DEFINITION. What an implementation of CPAN-CORE fixes (spec/00_scope.md R6), and the free values: constants with no
body, of which no proof can see a value.
-/

namespace Sys2Proof

/-- `P_BASE`, the address of the register window on the host bus: OPEN, it belongs to the platform (00_scope.md R6,
20_memory.md R51). No body. That an address is a natural number of no fixed width is the model's choice: the width
of the bus address is OPEN too (log 17). -/
opaque Config.pBase : Nat

/-- Free values (log 19): the value of width `w` that the hardware leaves unspecified, drawn with the index `n`. The
index comes from State's `freeCount`, which the draw advances. No body. -/
opaque Config.freeBits (w n : Nat) : BitVec w

/-- One value of a cipher: `key` and `block` give `out`. -/
structure CipherEntry where
  key : Key256
  block : Block
  out : Block
  deriving DecidableEq, Repr

/-- The parameters `P_BC` and `P_BC_KEY_OK` of 00_scope.md R6 as plain data (logs 2, 3). `P_BC` is the spec's default
instantiation, AES-256 (40_key_setup.md R102), but for the entries of `entries`; `P_BC_KEY_OK` is true but for the keys
of `rejectedKeys`. Keys and blocks are finitely many, so every `P_BC` and every `P_BC_KEY_OK` is some `Params`. -/
structure Params where
  entries : List CipherEntry
  rejectedKeys : List Key256
  deriving DecidableEq, Repr

/-- The spec's default instantiation (00_scope.md R6): AES-256, every key accepted. PRESUMED: the spec takes it "from
general knowledge, not in source" (logs 2, 3). -/
def Params.default : Params := { entries := [], rejectedKeys := [] }

end Sys2Proof
end

