-- ==== Sys2Proof/Machine/State.lean ====
section
/-!
DEFINITION. The state of CPAN-CORE as plain data (spec/10_state.md), the reasons a step can stop, and the state right
after reset (10_state.md R40).
-/

namespace Sys2Proof.Machine

/-- A 32-bit register of the window (20_memory.md R52). `reserved 0` is offset `0x08`, `reserved 1` is `0x0C`,
`reserved 2` to `reserved 5` are `0x70` to `0x7C`. -/
inductive Reg where
  | cmd
  | status
  | key (i : Fin 16)
  | ain (i : Fin 4)
  | aout (i : Fin 4)
  | reserved (i : Fin 6)
  deriving DecidableEq, Repr

/-- One event of the interleaving of 20_memory.md R62. A host access names a whole register, so an access of another
width, or at an offset that is no multiple of 4, has no move here (R56; log 10). -/
inductive Move where
  /-- The host reads a register. -/
  | read (r : Reg)
  /-- The host writes a register. -/
  | write (r : Reg) (v : Word)
  /-- The engine's turn: one engine step where one is enabled (70_reset_and_hazards.md R222), else nothing. -/
  | engine
  /-- The platform asserts the reset input (70_reset_and_hazards.md R210). -/
  | reset
  deriving DecidableEq, Repr

/-- `PHASE` (10_state.md R28). -/
inductive Phase where
  | idle
  | runKey
  | runV4
  | runV6
  deriving DecidableEq, Repr

/-- The error kinds of 30_encoding.md R84; codes 6 to 15 are never produced, so they have no name. -/
inductive ErrCode where
  | none
  | invalidKeyLength
  | keyDerivationFailed
  | invalidAddress
  | noContext
  | illegalCommand
  deriving DecidableEq, Repr

/-- The fields of `STATUS` (10_state.md R22). `ctxValid` is also `CTX_VALID` of the Engine Context (R32). Bits 31:16
hold no state: they read 0. -/
structure Status where
  busy : Bool
  done : Bool
  ctxValid : Bool
  outValid : Bool
  err : ErrCode
  outLen : BitVec 8
  deriving DecidableEq, Repr

/-- `CUR`, the latched command (10_state.md R27). What it holds after completion is the model's choice (log 25). -/
structure Latched where
  op : BitVec 4
  len : BitVec 8
  embed : Bool
  keySnap : SecretKey
  inSnap : Block
  deriving DecidableEq, Repr

/-- Everything the spec gives the machine, by the classes of 10_state.md R20; then the bookkeeping of R39; then the
model's own fields. `CMD` stores nothing (R21). -/
structure State where
  /-- `STATUS` (R22), with `CTX_VALID` (R32). -/
  status : Status
  /-- `KEY0` to `KEY15`, the key buffer `KB` (R23). -/
  key : Vector Word 16
  /-- `AIN0` to `AIN3`, the input buffer `IB` (R24). -/
  ain : Vector Word 4
  /-- The output buffer `OB`, read through `AOUT0` to `AOUT3` (R25). -/
  ob : Block
  /-- `PHASE` (R28). -/
  phase : Phase
  /-- `pos` (R26). -/
  pos : BitVec 7
  /-- `CUR` (R27). -/
  cur : Latched
  /-- `CK` (R29). -/
  ck : Key256
  /-- `PAD` (R30). -/
  pad : BitVec 256
  /-- `PP` (R31). -/
  pp : Word
  /-- `WR` (R34). -/
  wr : Block
  /-- `BLK` (R35). -/
  blk : Block
  /-- `OBLK` (R36). -/
  oblk : Block
  /-- `BIT` (R36). -/
  bit : BitVec 1
  /-- `KEY_WRITTEN` (R39). -/
  keyWritten : Vector Bool 16
  /-- `AIN_WRITTEN` (R39). -/
  ainWritten : Vector Bool 4
  /-- The sticky mark `FAULT` (R39). -/
  faulted : Bool
  /-- The sticky mark `REFUSED` (R39). -/
  refused : Bool
  /-- The implementation parameters (00_scope.md R6); no step changes them. -/
  params : Params
  /-- What is still to come of the interleaving of 20_memory.md R62, oldest first (log 1). -/
  moves : List Move
  /-- What the last host read returned (00_scope.md R14; log 16). -/
  rdata : Word
  /-- How many free values were drawn (log 19). -/
  freeCount : Nat
  deriving DecidableEq, Repr

/-- Why a step stops with a fault. The FAULT mark of R39 is no such stop: it is the field `faulted`, and the machine goes
on (logs 7, 8). -/
inductive Fault where
  /-- Raised by the engine step of a state with `BUSY = 1` and `PHASE = IDLE`, which 10_state.md R28 rules out and no
  run reaches. Safe: the model stops where the spec gives no meaning (log 15). -/
  | engineOutOfPhase
  deriving DecidableEq, Repr

/-- Why a step answers no meaning. -/
inductive Refusal where
  /-- Raised by an arm of `exec` whose command has no meaning yet; no arm raises it now. Safe: the model stops. -/
  | notModelled (mnemonic : String)
  deriving DecidableEq, Repr

/-- `STATUS` after reset, the word `0x00000000` (10_state.md R22, R40). -/
def Status.reset : Status :=
  { busy := false, done := false, ctxValid := false, outValid := false, err := .none, outLen := 0 }

/-- The machine right after reset, the initial state of a model (10_state.md R40, 70_reset_and_hazards.md R210). The spec
gives `STATUS`, `PHASE`, `CTX_VALID`, the written bits and the two marks. Every other register is "unspecified" there and
is 0 here: DESIGN CHOICE (logs 4, 5). `params` is the spec's default instantiation: PRESUMED (logs 2, 3). -/
def State.reset : State where
  status := Status.reset
  key := Vector.replicate 16 0
  ain := Vector.replicate 4 0
  ob := 0
  phase := .idle
  pos := 0
  cur := { op := 0, len := 0, embed := false, keySnap := 0, inSnap := 0 }
  ck := 0
  pad := 0
  pp := 0
  wr := 0
  blk := 0
  oblk := 0
  bit := 0
  keyWritten := Vector.replicate 16 false
  ainWritten := Vector.replicate 4 false
  faulted := false
  refused := false
  params := Params.default
  moves := []
  rdata := 0
  freeCount := 0

end Sys2Proof.Machine
end

