-- ==== Sys2Proof/Machine/Flags.lean ====
section
/-!
DEFINITION. The `STATUS` word and its error codes (spec/10_state.md R22, 30_encoding.md R84). `STATUS` is the block's
only flag register (10_state.md R38).
-/

namespace Sys2Proof.Machine

/-- The 4-bit code of an error (30_encoding.md R84). -/
def ErrCode.code : ErrCode → BitVec 4
  | .none => 0
  | .invalidKeyLength => 1
  | .keyDerivationFailed => 2
  | .invalidAddress => 3
  | .noContext => 4
  | .illegalCommand => 5

/-- The `STATUS` word (10_state.md R22): `OUT_LEN` in 15:8, `ERR` in 7:4, `OUT_VALID` in 3, `CTX_VALID` in 2, `DONE` in 1,
`BUSY` in 0, and 31:16 zero. -/
def statusWord (st : Status) : Word :=
  joinAs 32 0#16
    (joinAs 16 st.outLen
      (joinAs 8 st.err.code
        (joinAs 4 (joinAs 2 (BitVec.ofBool st.outValid) (BitVec.ofBool st.ctxValid))
          (joinAs 2 (BitVec.ofBool st.done) (BitVec.ofBool st.busy)))))

end Sys2Proof.Machine
end

