-- ==== Sys2Proof/Machine/Operands.lean ====
section
/-!
DEFINITION. Byte strings, the register map, operand assembly and the datapath's pure functions
(spec/00_scope.md R9 to R12, 20_memory.md R51 to R54, 30_encoding.md R86, 41_ipv4.md R121 to R124 and R126,
42_ipv6.md R141 and R143, 43_dispatch.md R161 and R162).
-/

namespace Sys2Proof.Machine

/-- The sub-string of `w / 8` bytes of the byte string `s` that starts at byte `a` (00_scope.md R10): `S[0..4)` is
`substr 32 S 0`. -/
def substr {n : Nat} (w : Nat) (s : BitVec n) (a : Nat) : BitVec w :=
  s.extractLsb' (n - 8 * a - w) w

/-- The register that holds bytes `4i` to `4i + 3` of a byte string, packed big-endian (20_memory.md R53). -/
def wordAt {n : Nat} (s : BitVec n) (i : Nat) : Word := substr 32 s (4 * i)

/-- The 16 bytes of four registers in order (20_memory.md R53). -/
def joinWords (a b c d : Word) : Block :=
  joinAs 128 (joinAs 64 a b) (joinAs 64 c d)

/-- `KB[0..64)`, the 64 bytes of `KEY0` to `KEY15` in order (10_state.md R23, 30_encoding.md R86). -/
def keyBuffer (k : Vector Word 16) : SecretKey :=
  joinAs 512
    (joinAs 256 (joinWords k[0] k[1] k[2] k[3]) (joinWords k[4] k[5] k[6] k[7]))
    (joinAs 256 (joinWords k[8] k[9] k[10] k[11]) (joinWords k[12] k[13] k[14] k[15]))

/-- `IB[0..16)`, the 16 bytes of `AIN0` to `AIN3` in order (10_state.md R24, 30_encoding.md R86). -/
def inputBuffer (a : Vector Word 4) : Block :=
  joinWords a[0] a[1] a[2] a[3]

/-- The offset of a register in the window (20_memory.md R52). -/
def Reg.offset : Reg → BitVec 7
  | .cmd => 0x00
  | .status => 0x04
  | .key i => BitVec.ofNat 7 (0x10 + 4 * i.val)
  | .ain i => BitVec.ofNat 7 (0x50 + 4 * i.val)
  | .aout i => BitVec.ofNat 7 (0x60 + 4 * i.val)
  | .reserved i => BitVec.ofNat 7 (if i.val < 2 then 0x08 + 4 * i.val else 0x68 + 4 * i.val)

/-- The register at an offset of the window (20_memory.md R52). An offset that is no multiple of 4 is outside the
interface (R56): no register. -/
def Reg.atOffset (off : BitVec 7) : Option Reg :=
  if off.toNat % 4 ≠ 0 then none
  else
    let i := off.toNat / 4
    if i = 0 then some .cmd
    else if i = 1 then some .status
    else if i < 4 then some (.reserved (Fin.ofNat 6 (i - 2)))
    else if i < 20 then some (.key (Fin.ofNat 16 (i - 4)))
    else if i < 24 then some (.ain (Fin.ofNat 4 (i - 20)))
    else if i < 28 then some (.aout (Fin.ofNat 4 (i - 24)))
    else some (.reserved (Fin.ofNat 6 (i - 26)))

/-- The platform address of a register (00_scope.md R14, 20_memory.md R51). The sum never wraps, because the model gives
the bus address no width, which R51 leaves OPEN: DESIGN CHOICE (log 17). -/
def Reg.address (base : Nat) (r : Reg) : Nat := base + r.offset.toNat

/-- The register that a platform address reaches: address `P_BASE + off` with `off` in `0x00` to `0x7F` reaches the
register at offset `off` (20_memory.md R51). Any other address is not this block's. The width of the bus address is OPEN
(R51), and `base` and `addr` are natural numbers with no top and no wrap: DESIGN CHOICE (log 17). -/
def Reg.atAddress (base addr : Nat) : Option Reg :=
  if base ≤ addr ∧ addr ≤ base + 0x7F then Reg.atOffset (BitVec.ofNat 7 (addr - base)) else none

/-- `mapped(S)` (43_dispatch.md R162): bytes 0 to 9 are `0x00`, bytes 10 and 11 are `0xFF`. -/
def mapped (s : Block) : Bool :=
  substr 80 s 0 == 0#80 && substr 8 s 10 == 0xFF#8 && substr 8 s 11 == 0xFF#8

/-- `v4_operand` (41_ipv4.md R121): the 32-bit operand and the re-embedding flag; `none` is INVALID_ADDRESS. -/
def v4Operand (len : Nat) (s : Block) : Option (Word × Bool) :=
  if len = 4 then some (substr 32 s 0, false)
  else if len = 16 ∧ mapped s = true then some (substr 32 s 12, true)
  else none

/-- The classes of 43_dispatch.md R161. -/
inductive AddrClass where
  | v4Plain
  | v4Mapped
  | v6
  | invalid
  deriving DecidableEq, Repr

/-- `classify` (43_dispatch.md R161). -/
def classify (len : Nat) (s : Block) : AddrClass :=
  if len = 4 then .v4Plain
  else if len = 16 ∧ mapped s = true then .v4Mapped
  else if len = 16 then .v6
  else .invalid

/-- `v4_block` (41_ipv4.md R122); `shr(PP, 32)` is 0 (00_scope.md R12). -/
def v4Block (pp r : Word) (p : Nat) : Block :=
  let win : Word := (r <<< p) ||| (pp >>> (32 - p))
  joinAs 128 (joinAs 40 ((pp >>> 24).setWidth 8) win) 0#88

/-- `v6_block` (42_ipv6.md R141): only the low 64 bits of the window reach the block. -/
def v6Block (pp : Word) (r : Block) (p : Nat) : Block :=
  let w128 : Block := (r <<< p) ||| (pp.setWidth 128 >>> (128 - p))
  joinAs 128 (joinAs 64 ((pp >>> 24).setWidth 8) 0#56) (w128.setWidth 64)

/-- `shr(O[0], 7) & 1`, the top bit of output byte 0 (41_ipv4.md R123). -/
def topBit (o : Block) : BitVec 1 :=
  (substr 8 o 0 >>> 7).setWidth 1

/-- The OR without clear at MSB-position `p` of an `n`-bit register (41_ipv4.md R124). -/
def mergeBit {n : Nat} (r : BitVec n) (bit : BitVec 1) (p : Nat) : BitVec n :=
  r ||| (bit.setWidth n <<< (n - 1 - p))

/-- `WR[31:0]`, the part of the working register that the IPv4 path uses (10_state.md R34). -/
def low32 (w : Block) : Word := w.extractLsb' 0 32

/-- `WR[31:0] <- r`, the other bits kept (41_ipv4.md R120). -/
def withLow32 (w : Block) (r : Word) : Block :=
  joinAs 128 (w.extractLsb' 32 96) r

/-- `OB` of `v4_output` (41_ipv4.md R126). -/
def v4Output (r : Word) (embed : Bool) : Block :=
  if embed then joinAs 128 (joinAs 96 (joinAs 88 0#80 0xFF#8) 0xFF#8) r else joinAs 128 r 0#96

/-- `OUT_LEN` of `v4_output` (41_ipv4.md R126). -/
def v4OutLen (embed : Bool) : BitVec 8 :=
  if embed then 16 else 4

end Sys2Proof.Machine
end

