-- ==== Sys2Proof/Machine/Aes.lean ====
section
/-!
DEFINITION. AES-256 encryption, the default instantiation of the parameter `P_BC` (spec/00_scope.md R6, 40_key_setup.md
R102, 93_implementation_defined.md G1). PRESUMED: the algorithm is FIPS-197's, which the spec names and does not
reproduce (log 2); spec/95_test_vectors.md section 2.0 gives the vectors that check it. A byte string is its big-endian
value, so byte 0 of a block is its most significant byte; bytes 4c to 4c+3 are column c of the AES state.
-/

namespace Sys2Proof.Aes

/-- The substitution table, byte 0 first. -/
def sboxTable : BitVec 2048 :=
  0x637c777bf26b6fc53001672bfed7ab76#128 ++
  0xca82c97dfa5947f0add4a2af9ca472c0#128 ++
  0xb7fd9326363ff7cc34a5e5f171d83115#128 ++
  0x04c723c31896059a071280e2eb27b275#128 ++
  0x09832c1a1b6e5aa0523bd6b329e32f84#128 ++
  0x53d100ed20fcb15b6acbbe394a4c58cf#128 ++
  0xd0efaafb434d338545f9027f503c9fa8#128 ++
  0x51a3408f929d38f5bcb6da2110fff3d2#128 ++
  0xcd0c13ec5f974417c4a77e3d645d1973#128 ++
  0x60814fdc222a908846eeb814de5e0bdb#128 ++
  0xe0323a0a4906245cc2d3ac629195e479#128 ++
  0xe7c8376d8dd54ea96c56f4ea657aae08#128 ++
  0xba78252e1ca6b4c6e8dd741f4bbd8b8a#128 ++
  0x703eb5664803f60e613557b986c11d9e#128 ++
  0xe1f8981169d98e949b1e87e9ce5528df#128 ++
  0x8ca1890dbfe6426841992d0fb054bb16#128

/-- The substitution of one byte. -/
def subByte (x : BitVec 8) : BitVec 8 :=
  (sboxTable >>> (8 * (255 - x.toNat))).setWidth 8

/-- Multiplication by x in the field of AES. -/
def xtime (x : BitVec 8) : BitVec 8 :=
  if x.msb then (x <<< 1) ^^^ 0x1b#8 else x <<< 1

/-- Byte `i` of a block. -/
def byteAt (s : Block) (i : Nat) : BitVec 8 :=
  (s >>> (8 * (15 - i))).setWidth 8

/-- A column from its four bytes, top first. -/
def column (a b c d : BitVec 8) : Word := a ++ b ++ c ++ d

/-- A block from its four columns. -/
def ofColumns (a b c d : Word) : Block := a ++ b ++ c ++ d

/-- SubBytes and ShiftRows together: column `c` of the result takes row r from column c + r. -/
def shiftedColumn (s : Block) (c : Nat) : Word :=
  column (subByte (byteAt s (4 * c)))
    (subByte (byteAt s (4 * ((c + 1) % 4) + 1)))
    (subByte (byteAt s (4 * ((c + 2) % 4) + 2)))
    (subByte (byteAt s (4 * ((c + 3) % 4) + 3)))

/-- MixColumns on one column. -/
def mixColumn (w : Word) : Word :=
  let a := w.extractLsb' 24 8
  let b := w.extractLsb' 16 8
  let c := w.extractLsb' 8 8
  let d := w.extractLsb' 0 8
  let t := a ^^^ b ^^^ c ^^^ d
  column (a ^^^ t ^^^ xtime (a ^^^ b)) (b ^^^ t ^^^ xtime (b ^^^ c))
    (c ^^^ t ^^^ xtime (c ^^^ d)) (d ^^^ t ^^^ xtime (d ^^^ a))

/-- A round with MixColumns. -/
def fullRound (rk s : Block) : Block :=
  rk ^^^ ofColumns (mixColumn (shiftedColumn s 0)) (mixColumn (shiftedColumn s 1))
    (mixColumn (shiftedColumn s 2)) (mixColumn (shiftedColumn s 3))

/-- The last round, without MixColumns. -/
def lastRound (rk s : Block) : Block :=
  rk ^^^ ofColumns (shiftedColumn s 0) (shiftedColumn s 1) (shiftedColumn s 2) (shiftedColumn s 3)

/-- SubWord of the key schedule. -/
def subWord (w : Word) : Word :=
  column (subByte (w.extractLsb' 24 8)) (subByte (w.extractLsb' 16 8))
    (subByte (w.extractLsb' 8 8)) (subByte (w.extractLsb' 0 8))

/-- Four schedule words, each the word eight before it xor its predecessor, from `t`. -/
def chain (prev : Block) (t : Word) : Block :=
  let a := prev.extractLsb' 96 32 ^^^ t
  let b := prev.extractLsb' 64 32 ^^^ a
  let c := prev.extractLsb' 32 32 ^^^ b
  let d := prev.extractLsb' 0 32 ^^^ c
  ofColumns a b c d

/-- The round keys after `p` and `q`, the last two, `n` of them: two at a time, the first with RotWord and the round
constant, the second without. -/
def roundKeys : Nat → BitVec 8 → Block → Block → List Block
  | 0, _, _, _ => []
  | 1, rcon, p, q =>
    [chain p (subWord ((q.extractLsb' 0 32).rotateLeft 8) ^^^ (rcon ++ 0#24))]
  | n + 2, rcon, p, q =>
    let r := chain p (subWord ((q.extractLsb' 0 32).rotateLeft 8) ^^^ (rcon ++ 0#24))
    let t := chain q (subWord (r.extractLsb' 0 32))
    r :: t :: roundKeys n (xtime rcon) r t

/-- The rounds of a list of round keys; the last one is the last round. -/
def rounds : List Block → Block → Block
  | [], s => s
  | [rk], s => lastRound rk s
  | rk :: rks, s => rounds rks (fullRound rk s)

/-- AES-256 encryption of one block: the key's halves are the first two of fifteen round keys. Irreducible, so that the
elaborator never unfolds it; the kernel evaluates it. -/
@[irreducible] def encrypt (k : Key256) (b : Block) : Block :=
  let k0 : Block := k.extractLsb' 128 128
  let k1 : Block := k.extractLsb' 0 128
  rounds (k1 :: roundKeys 13 0x01#8 k0 k1) (b ^^^ k0)

end Sys2Proof.Aes
end

