-- ==== Sys2Proof/Machine/Oracle.lean ====
section
/-!
DEFINITION. The block-cipher oracle (spec/00_scope.md R13, 40_key_setup.md R102, R103): a function of the parameters, the
key and the block, and of nothing else (20_memory.md R70).
-/

namespace Sys2Proof.Machine

/-- `P_BC` (00_scope.md R6): the value of the first entry for this key and block, else the default instantiation. -/
def bcValue (p : Params) (k : Key256) (b : Block) : Block :=
  match p.entries.find? (fun e => e.key == k && e.block == b) with
  | some e => e.out
  | none => Aes.encrypt k b

/-- `P_BC_KEY_OK` (00_scope.md R6): whether cipher initialization accepts the key. -/
def bcKeyOk (p : Params) (k : Key256) : Bool :=
  !p.rejectedKeys.contains k

/-- R6 describes `P_BC` as "a permutation of `Block128` for each key". No rule of the model uses it (40_key_setup.md R102
"assumes of it only that it is a deterministic function of key and block"). -/
def Params.IsPermutation (p : Params) : Prop :=
  ∀ k, Function.Bijective (bcValue p k)

end Sys2Proof.Machine
end

