-- ==== Sys2Proof/Machine/Ops.lean ====
section
/-!
DEFINITION. The named operations over the state: acceptance, completion, errors (the block's exception mechanism),
the model's marks, host register accesses, free values and reset (spec/60_exceptions.md R180 to R203, 10_state.md R39,
20_memory.md R57 and R58, 70_reset_and_hazards.md R210 and R216).
-/

namespace Sys2Proof.Machine

/-! ### Free values -/

/-- The `k`-th free value of this step, of width `w` (log 19). -/
def State.free (s : State) (w k : Nat) : BitVec w :=
  Config.freeBits w (s.freeCount + k)

/-! ### Acceptance, completion and errors -/

/-- The `STATUS` writes of every acceptance (60_exceptions.md R181). -/
def State.beginCommand (s : State) : State :=
  { s with status :=
      { s.status with busy := true, done := false, err := .none, outValid := false, outLen := 0 } }

/-- `raise E(code)` (60_exceptions.md R185), the block's only exception mechanism (R180): the code goes into
`STATUS.ERR` and the command completes. No pc, status or mode is saved and no control is transferred (R194). What `CUR`
and the datapath hold afterwards the spec leaves open; they are kept (DESIGN CHOICE, log 25). -/
def State.raiseError (c : ErrCode) (s : State) : State :=
  { s with status := { s.status with err := c, busy := false, done := true }, phase := .idle }

/-- `complete()` (60_exceptions.md R184), the other way a command ends; there is no return from an error (R194). `CUR`
keeps the latched command until the next acceptance or reset, although the spec leaves its value outside its use open
(93_implementation_defined.md U11): DESIGN CHOICE (log 25). -/
def State.complete (s : State) : State :=
  { s with status := { s.status with busy := false, done := true }, phase := .idle }

/-- A host write of `CMD`, `KEYi` or `AINi` while `BUSY = 1` (70_reset_and_hazards.md R216): nothing but the sticky
`REFUSED` mark. -/
def State.refuse (s : State) : State :=
  { s with refused := true }

/-- The sticky `FAULT` mark (10_state.md R39), set where `unread` holds (log 7). -/
def State.markFault (unread : Bool) (s : State) : State :=
  { s with faulted := s.faulted || unread }

/-- Acceptance of an illegal word (60_exceptions.md R181, R190): `STATUS` is written, nothing else is. While `BUSY = 1`
a write of `CMD` is no acceptance (70_reset_and_hazards.md R216). -/
def State.acceptIllegal (s : State) : State :=
  if s.status.busy then s.refuse else (s.beginCommand).raiseError .illegalCommand

/-- Acceptance of KEYSETUP up to the command rule's length check (60_exceptions.md R181, 40_key_setup.md R100): `CUR.OP`,
`CUR.LEN` and `CUR.KEYSNAP` latched, `PHASE <- RUN_KEY`, `CTX_VALID <- 0`. -/
def State.acceptKey (op : BitVec 4) (len : Nat) (s : State) : State :=
  { s with
    status := { busy := true, done := false, ctxValid := false, outValid := false, err := .none, outLen := 0 }
    cur := { s.cur with op := op, len := BitVec.ofNat 8 len, keySnap := keyBuffer s.key }
    phase := .runKey }

/-- Acceptance of an anonymize command up to its context check (60_exceptions.md R181): `CUR.OP`, `CUR.LEN` and
`CUR.INSNAP` latched. -/
def State.acceptAddress (op : BitVec 4) (len : Nat) (s : State) : State :=
  { s.beginCommand with
    cur := { s.cur with op := op, len := BitVec.ofNat 8 len, inSnap := inputBuffer s.ain } }

/-- An anonymize command's context check (60_exceptions.md R181, R189), then its body. -/
def State.withContext (body : State → State) (s : State) : State :=
  if s.status.ctxValid then body s else s.raiseError .noContext

/-! ### Words consumed before they were written (10_state.md R39) -/

/-- Some `KEYi` was not written since reset. -/
def State.keyUnwritten (s : State) : Bool :=
  s.keyWritten.toList.any (fun w => !w)

/-- An address operand of `len` bytes reads some `AINi` that was not written since reset: `AIN0` for 4 bytes, all four
for 16, none for another length (30_encoding.md R86, 60_exceptions.md R203). -/
def State.addressUnwritten (s : State) (len : Nat) : Bool :=
  if len = 4 then !s.ainWritten[0]
  else if len = 16 then s.ainWritten.toList.any (fun w => !w)
  else false

/-! ### The oracle and the shared pipeline stages -/

/-- `BC(CK, b)` (00_scope.md R13). -/
def State.oracle (s : State) (b : Block) : Block :=
  bcValue s.params s.ck b

/-- `WR`, `BLK`, `OBLK`, `BIT` and `pos` outside the loops are unspecified (10_state.md R26, R34,
93_implementation_defined.md U11): free values (log 11). -/
def State.releaseDatapath (s : State) : State :=
  { s with
    wr := s.free 128 0
    blk := s.free 128 1
    oblk := s.free 128 2
    bit := s.free 1 3
    pos := s.free 7 4
    freeCount := s.freeCount + 5 }

/-- The completion step of a loop: `OB`, `OUT_LEN`, `OUT_VALID` and the completion change together (20_memory.md R59,
60_exceptions.md R184). -/
def State.deliver (ob : Block) (len : BitVec 8) (s : State) : State :=
  State.releaseDatapath
    (State.complete { s with ob := ob, status := { s.status with outValid := true, outLen := len } })

/-! ### Host register accesses -/

/-- Whether a host read of `r` is a read of `AOUTi` while `OUT_VALID = 0` (60_exceptions.md R203). -/
def State.unreadable (s : State) : Reg → Bool
  | .aout _ => !s.status.outValid
  | _ => false

/-- The 32 bits that a host read of `r` returns (20_memory.md R52, R58). While `OUT_VALID = 0` the content of `AOUTi` is
unspecified (10_state.md R25): a free value (log 8). -/
def State.readValue (s : State) : Reg → Word
  | .cmd => 0
  | .status => statusWord s.status
  | .key _ => 0
  | .ain i => s.ain[i]
  | .aout i => if s.status.outValid then wordAt s.ob i.val else s.free 32 0
  | .reserved _ => 0

/-- A host read: no side effect on the block (20_memory.md R57), the value goes to the host, and the model sets `FAULT`
where the read is unreadable (10_state.md R25, R39). -/
def State.busRead (r : Reg) (s : State) : State :=
  { s with
    rdata := s.readValue r
    faulted := s.faulted || s.unreadable r
    freeCount := if s.unreadable r then s.freeCount + 1 else s.freeCount }

/-- A host write of `KEYi` (20_memory.md R57, 70_reset_and_hazards.md R216). -/
def State.writeKey (i : Fin 16) (v : Word) (s : State) : State :=
  if s.status.busy then s.refuse
  else { s with key := s.key.set i v, keyWritten := s.keyWritten.set i true }

/-- A host write of `AINi` (20_memory.md R57, 70_reset_and_hazards.md R216). -/
def State.writeAin (i : Fin 4) (v : Word) (s : State) : State :=
  if s.status.busy then s.refuse
  else { s with ain := s.ain.set i v, ainWritten := s.ainWritten.set i true }

/-! ### Reset -/

/-- The reset input (70_reset_and_hazards.md R210, R211): `STATUS`, `PHASE` and the written bits at their reset values,
every other register unspecified, a free value (log 6). `FAULT` and `REFUSED` are kept, and so is what is not the
block's: the parameters, the moves still to come and the host's read data. -/
def State.applyReset (s : State) : State :=
  { s with
    status := Status.reset
    phase := .idle
    keyWritten := Vector.replicate 16 false
    ainWritten := Vector.replicate 4 false
    key := Vector.ofFn (fun i => s.free 32 i.val)
    ain := Vector.ofFn (fun i => s.free 32 (16 + i.val))
    ob := s.free 128 20
    pos := s.free 7 21
    cur :=
      { op := s.free 4 22
        len := s.free 8 23
        embed := s.free 1 24 == 1#1
        keySnap := s.free 512 25
        inSnap := s.free 128 26 }
    ck := s.free 256 27
    pad := s.free 256 28
    pp := s.free 32 29
    wr := s.free 128 30
    blk := s.free 128 31
    oblk := s.free 128 32
    bit := s.free 1 33
    freeCount := s.freeCount + 34 }

end Sys2Proof.Machine
end

