-- ==== Sys2Proof/Machine/Ipv4.lean ====
section
/-!
DEFINITION. ANON_V4 (spec/41_ipv4.md R120 to R131): its acceptance step and the engine step of `RUN_V4`
(60_exceptions.md R182). ANON reuses both (43_dispatch.md R160).
-/

namespace Sys2Proof.Machine

/-- The start of the IPv4 loop, up to its first oracle call (41_ipv4.md R120, 60_exceptions.md R182). -/
def State.startV4 (w : Word) (embed : Bool) (s : State) : State :=
  { s with
    wr := w.setWidth 128
    cur := { s.cur with embed := embed }
    phase := .runV4
    pos := 0
    blk := v4Block s.pp w 0 }

/-- The body of ANON_V4 after its context check (41_ipv4.md R120, R121): the mark for unwritten words comes before the
mapped test (60_exceptions.md R183). -/
def State.beginV4 (len : Nat) (s : State) : State :=
  let t := s.markFault (s.addressUnwritten len)
  match v4Operand len t.cur.inSnap with
  | some (w, embed) => t.startV4 w embed
  | none => t.raiseError .invalidAddress

/-- ANON_V4: the acceptance step of the command (60_exceptions.md R181, R182). -/
def execAnonV4 (len : Nat) (s : State) : Host.Outcome State Fault Refusal :=
  .next (if s.status.busy then s.refuse
    else (s.acceptAddress 0x2#4 len).withContext (State.beginV4 len))

/-- The oracle call, the bit and the merge of one IPv4 iteration (41_ipv4.md R123, R124). -/
def State.iterateV4 (s : State) : State :=
  let o := s.oracle s.blk
  { s with
    oblk := o
    bit := topBit o
    wr := withLow32 s.wr (mergeBit (low32 s.wr) (topBit o) s.pos.toNat) }

/-- The engine step of `RUN_V4` (41_ipv4.md R125, R126, 60_exceptions.md R182): the iteration at `pos`, then the next
block, or after `pos = 31` the result and completion. -/
def State.stepV4 (s : State) : State :=
  let t := s.iterateV4
  if s.pos.toNat < 31 then
    { t with pos := s.pos + 1, blk := v4Block s.pp (low32 t.wr) (s.pos.toNat + 1) }
  else
    t.deliver (v4Output (low32 t.wr) t.cur.embed) (v4OutLen t.cur.embed)

end Sys2Proof.Machine
end

