-- ==== Sys2Proof/Machine/Ipv6.lean ====
section
/-!
DEFINITION. ANON_V6 (spec/42_ipv6.md R140 to R150): its acceptance step and the engine step of `RUN_V6`
(60_exceptions.md R182). ANON reuses both (43_dispatch.md R160).
-/

namespace Sys2Proof.Machine

/-- The start of the IPv6 loop, up to its first oracle call (42_ipv6.md R140, 60_exceptions.md R182). -/
def State.startV6 (s : State) : State :=
  { s with
    wr := s.cur.inSnap
    phase := .runV6
    pos := 0
    blk := v6Block s.pp s.cur.inSnap 0 }

/-- The body of ANON_V6 after its context check (42_ipv6.md R140, R146). A wrong length reads no input byte. -/
def State.beginV6 (len : Nat) (s : State) : State :=
  if len ≠ 16 then s.raiseError .invalidAddress
  else (s.markFault (s.addressUnwritten 16)).startV6

/-- ANON_V6: the acceptance step of the command (60_exceptions.md R181, R182). -/
def execAnonV6 (len : Nat) (s : State) : Host.Outcome State Fault Refusal :=
  .next (if s.status.busy then s.refuse
    else (s.acceptAddress 0x3#4 len).withContext (State.beginV6 len))

/-- The oracle call, the bit and the merge of one IPv6 iteration (42_ipv6.md R142, R143). -/
def State.iterateV6 (s : State) : State :=
  let o := s.oracle s.blk
  { s with
    oblk := o
    bit := topBit o
    wr := mergeBit s.wr (topBit o) s.pos.toNat }

/-- The engine step of `RUN_V6` (42_ipv6.md R144, R145, 60_exceptions.md R182): the iteration at `pos`, then the next
block, or after `pos = 127` the result and completion. -/
def State.stepV6 (s : State) : State :=
  let t := s.iterateV6
  if s.pos.toNat < 127 then
    { t with pos := s.pos + 1, blk := v6Block s.pp t.wr (s.pos.toNat + 1) }
  else
    t.deliver t.wr 16

end Sys2Proof.Machine
end

