-- ==== Sys2Proof/Machine/Anon.lean ====
section
/-!
DEFINITION. ANON, the dispatcher (spec/43_dispatch.md R160 to R167). It has no datapath of its own.
-/

namespace Sys2Proof.Machine

/-- The body of ANON after its context check (43_dispatch.md R160, R161, R163): classify once, then run the body of the
typed command. The mark for unwritten words comes before the mapped test (60_exceptions.md R183). -/
def State.beginAnon (len : Nat) (s : State) : State :=
  let t := s.markFault (s.addressUnwritten len)
  match classify len t.cur.inSnap with
  | .v4Plain => t.beginV4 4
  | .v4Mapped => t.beginV4 16
  | .v6 => t.beginV6 16
  | .invalid => t.raiseError .invalidAddress

/-- ANON: the acceptance step of the command (60_exceptions.md R181, R182). -/
def execAnon (len : Nat) (s : State) : Host.Outcome State Fault Refusal :=
  .next (if s.status.busy then s.refuse
    else (s.acceptAddress 0x4#4 len).withContext (State.beginAnon len))

end Sys2Proof.Machine
end

