-- ==== Sys2Proof/Machine/KeySetup.lean ====
section
/-!
DEFINITION. KEYSETUP (spec/40_key_setup.md R100 to R111): its acceptance step and its one engine step
(60_exceptions.md R182).
-/

namespace Sys2Proof.Machine

/-- The split of the key into its halves (40_key_setup.md R101). -/
def State.splitKey (s : State) : State :=
  { s with ck := substr 256 s.cur.keySnap 0, pad := substr 256 s.cur.keySnap 32 }

/-- KEYSETUP after acceptance, up to its oracle call (40_key_setup.md R100, 60_exceptions.md R183): the length, then the
mark for unwritten words, then the split, then `P_BC_KEY_OK`. -/
def State.beginKey (len : Nat) (s : State) : State :=
  if len ≠ 64 then s.raiseError .invalidKeyLength
  else
    let t := (s.markFault s.keyUnwritten).splitKey
    if bcKeyOk t.params t.ck then t else t.raiseError .keyDerivationFailed

/-- KEYSETUP: the acceptance step of the command (60_exceptions.md R181, R182). -/
def execKeysetup (len : Nat) (s : State) : Host.Outcome State Fault Refusal :=
  .next (if s.status.busy then s.refuse else (s.acceptKey 0x1#4 len).beginKey len)

/-- The pad after its first 16 bytes are enciphered in place (40_key_setup.md R104, R107). -/
def State.derivedPad (s : State) : BitVec 256 :=
  joinAs 256 (s.oracle (substr 128 s.pad 0)) (substr 128 s.pad 16)

/-- KEYSETUP's engine step: the oracle call, the pad prefix, `CTX_VALID <- 1` and completion
(40_key_setup.md R104, R105, R108, 60_exceptions.md R182). -/
def State.keyStep (s : State) : State :=
  State.complete
    { s with
      pad := s.derivedPad
      pp := substr 32 s.derivedPad 0
      status := { s.status with ctxValid := true } }

end Sys2Proof.Machine
end

