-- ==== Sys2Proof/Machine/Dispatch.lean ====
section
/-!
DEFINITION. One arm per command. `exec i s` is the acceptance step of command `i`: what a host write of its command word
does in one atomic step (spec/60_exceptions.md R181, R182; log 12).
-/

namespace Sys2Proof.Machine

def exec (i : Instr) (s : State) : Host.Outcome State Fault Refusal :=
  match i with
  | .keysetup len => Sys2Proof.Machine.execKeysetup len s
  | .anonV4 len => Sys2Proof.Machine.execAnonV4 len s
  | .anonV6 len => Sys2Proof.Machine.execAnonV6 len s
  | .anon len => Sys2Proof.Machine.execAnon len s

end Sys2Proof.Machine
end

