-- ==== Sys2Proof/Machine/Engine.lean ====
section
/-!
DEFINITION. The engine's step (spec/00_scope.md R7, 60_exceptions.md R182): one oracle call of the running command.
-/

namespace Sys2Proof.Machine

/-- One turn of the engine. It takes steps only while `BUSY = 1` (00_scope.md R7); in `IDLE` it runs nothing
(70_reset_and_hazards.md R212). `BUSY = 1` with `PHASE = IDLE` is ruled out by 10_state.md R28 (log 15). -/
def engineStep (s : State) : Host.Outcome State Fault Refusal :=
  if s.status.busy then
    match s.phase with
    | .idle => .fault .engineOutOfPhase
    | .runKey => .next s.keyStep
    | .runV4 => .next s.stepV4
    | .runV6 => .next s.stepV6
  else .next s

/-- `n` turns of the engine in a row, stopping at a fault (60_exceptions.md R182, 70_reset_and_hazards.md R222). -/
def engineRun : Nat → State → Host.Outcome State Fault Refusal
  | 0, s => .next s
  | n + 1, s =>
    match engineStep s with
    | .next t => engineRun n t
    | .fault f => .fault f
    | .refused r => .refused r

end Sys2Proof.Machine
end

