-- ==== Sys2Proof/Machine/Bus.lean ====
section
/-!
DEFINITION. What each move of the interleaving does (spec/20_memory.md R52, R57, R58, R62; 60_exceptions.md R181;
70_reset_and_hazards.md R210, R216).
-/

namespace Sys2Proof.Machine

/-- A host write of `CMD` (10_state.md R21, 60_exceptions.md R181): a legal word runs its command, an illegal one is
accepted and completes with `ILLEGAL_COMMAND` (R190). -/
def writeCmd (w : Word) (s : State) : Host.Outcome State Fault Refusal :=
  match decode w with
  | .ok i => exec i s
  | .error _ => .next s.acceptIllegal

/-- A host write of a register (20_memory.md R52, R57, R58): writes of `STATUS`, `AOUTi` and reserved offsets are
ignored, busy or not. -/
def busWrite (r : Reg) (v : Word) (s : State) : Host.Outcome State Fault Refusal :=
  match r with
  | .cmd => writeCmd v s
  | .status => .next s
  | .key i => .next (s.writeKey i v)
  | .ain i => .next (s.writeAin i v)
  | .aout _ => .next s
  | .reserved _ => .next s

/-- `MemWrite(addr, 4, v)` of 00_scope.md R14 at the platform address `addr`: `none` where the address is not the
block's, or no multiple of 4 in the window, which is no move (20_memory.md R51, R56; logs 10, 17). -/
def memWrite (addr : Nat) (v : Word) (s : State) : Option (Host.Outcome State Fault Refusal) :=
  (Reg.atAddress Config.pBase addr).map (fun r => busWrite r v s)

/-- `MemRead(addr, 4)` of 00_scope.md R14, likewise: the value is in the next state's `rdata`. -/
def memRead (addr : Nat) (s : State) : Option (Host.Outcome State Fault Refusal) :=
  (Reg.atAddress Config.pBase addr).map (fun r => .next (s.busRead r))

/-- One move, in one atomic step (20_memory.md R59, R62). -/
def runMove (m : Move) (s : State) : Host.Outcome State Fault Refusal :=
  match m with
  | .read r => .next (s.busRead r)
  | .write r v => busWrite r v s
  | .engine => engineStep s
  | .reset => .next s.applyReset

/-- The step of a state with `moves` to come: the oldest move runs; where none is left the engine has its turn, which
does nothing in `IDLE` (70_reset_and_hazards.md R212, R222; log 1). -/
def runNext (moves : List Move) (s : State) : Host.Outcome State Fault Refusal :=
  match moves with
  | [] => engineStep s
  | m :: rest => runMove m { s with moves := rest }

/-- The host's write of a command word becomes the next move (log 13). The word is the `nbits` low bits of `w`. -/
def placeCommand (s : State) (nbits w : Nat) : State :=
  { s with moves := .write .cmd (BitVec.ofNat 32 (w % 2 ^ nbits)) :: s.moves }

end Sys2Proof.Machine
end

