-- ==== Sys2Proof/Machine/Step.lean ====
section
/-!
DEFINITION. One step of the machine: the next event of the interleaving of spec/20_memory.md R62.
-/

namespace Sys2Proof.Machine

/-- One step (20_memory.md R62, 60_exceptions.md R182). -/
def step (s : State) : Host.Outcome State Fault Refusal :=
  runNext s.moves s

/-- `s` with the instruction stored where `step` takes its next one from: the host's next move is a write of it to `CMD`
(60_exceptions.md R181; log 13). -/
def State.withFetchWord (s : State) (nbits w : Nat) : State :=
  placeCommand s nbits w

end Sys2Proof.Machine
end

