-- ==== Sys2Proof/Machine/Reference.lean ====
section
/-!
DEFINITION. The two loops as pure functions of an oracle, a pad prefix and an address, and the closed forms the spec
gives for them (spec/41_ipv4.md R120, R128; 42_ipv6.md R140, R148). The machine does not use this file: statements
compare its engine steps with it.
-/

namespace Sys2Proof.Machine

/-- One iteration of the IPv4 loop on the working value `r` at position `p` (41_ipv4.md R122 to R124). -/
def v4Iteration (bc : Block → Block) (pp r : Word) (p : Nat) : Word :=
  mergeBit r (topBit (bc (v4Block pp r p))) p

/-- The IPv4 loop after its first `n` iterations (41_ipv4.md R120, R125). -/
def v4Loop (bc : Block → Block) (pp a : Word) : Nat → Word
  | 0 => a
  | n + 1 => v4Iteration bc pp (v4Loop bc pp a n) n

/-- The anonymized IPv4 address: all 32 iterations (41_ipv4.md R125). -/
def v4Image (bc : Block → Block) (pp a : Word) : Word := v4Loop bc pp a 32

/-- `F4` of 41_ipv4.md R128. -/
def v4Bits (bc : Block → Block) (pp a : Word) : Word :=
  BitVec.ofNat 32 (∑ p ∈ Finset.range 32, (topBit (bc (v4Block pp a p))).toNat * 2 ^ (31 - p))

/-- One iteration of the IPv6 loop on the working value `r` at position `p` (42_ipv6.md R141 to R143). -/
def v6Iteration (bc : Block → Block) (pp : Word) (r : Block) (p : Nat) : Block :=
  mergeBit r (topBit (bc (v6Block pp r p))) p

/-- The IPv6 loop after its first `n` iterations (42_ipv6.md R140, R144). -/
def v6Loop (bc : Block → Block) (pp : Word) (a : Block) : Nat → Block
  | 0 => a
  | n + 1 => v6Iteration bc pp (v6Loop bc pp a n) n

/-- The anonymized IPv6 address: all 128 iterations (42_ipv6.md R144). -/
def v6Image (bc : Block → Block) (pp : Word) (a : Block) : Block := v6Loop bc pp a 128

/-- `G6` of 42_ipv6.md R148, a function of the low 64 bits of the address. -/
def v6Bits (bc : Block → Block) (pp : Word) (x : BitVec 64) : Block :=
  BitVec.ofNat 128
    (∑ p ∈ Finset.range 128, (topBit (bc (v6Block pp (x.setWidth 128) p))).toNat * 2 ^ (127 - p))

/-- `BC(CK, ·)` of a state: the oracle of its context (00_scope.md R13). -/
def State.contextOracle (s : State) : Block → Block := bcValue s.params s.ck

end Sys2Proof.Machine
end

