-- ==== Sys2Proof/Machine/HostProgram.lean ====
section
/-!
DEFINITION. The host-program notation (spec/30_encoding.md R90, R91): its lines, its pseudo-instructions with their
expansions, one turn of a host that runs such a program, and where its run ends (70_reset_and_hazards.md R225). Host control flow is the host's, not the block's (R90); no
file of the block's machine uses this one.
-/

namespace Sys2Proof.Machine

/-- A line of a host program (R90). A host variable and a label are names. -/
inductive HostLine where
  /-- `WR <reg>, <value32>`. -/
  | wr (r : Reg) (v : Word)
  /-- `RD <reg> -> <name>`. -/
  | rd (r : Reg) (name : String)
  /-- `BNE <name>, <mask>, <value>, <label>`. -/
  | bne (name : String) (mask value : Word) (target : String)
  /-- `label:`. -/
  | label (name : String)
  deriving DecidableEq, Repr

/-- `ISSUE <mnemonic> len=<n>` (R91). -/
def hostIssue (i : Instr) : List HostLine := [.wr .cmd (encode i)]

/-- `POLL -> s` with its label `l` (R91): loop while `BUSY = 1`. -/
def hostPoll (l name : String) : List HostLine :=
  [.label l, .rd .status name, .bne name 0x1 0x0 l]

/-- `RUN <mnemonic> len=<n> -> s` (R91). -/
def hostRun (i : Instr) (l name : String) : List HostLine := hostIssue i ++ hostPoll l name

/-- `LOADKEY <64 bytes>` (R91): `KEY0` to `KEY15` in ascending order. -/
def hostLoadKey (k : SecretKey) : List HostLine :=
  (List.finRange 16).map (fun i => .wr (.key i) (wordAt k i.val))

/-- `LOADADDR4 <4 bytes>` (R91). -/
def hostLoadAddr4 (a : Word) : List HostLine := [.wr (.ain 0) a]

/-- `LOADADDR16 <16 bytes>` (R91). -/
def hostLoadAddr16 (a : Block) : List HostLine :=
  (List.finRange 4).map (fun i => .wr (.ain i) (wordAt a i.val))

/-- `CHECK s, <err>` (R91). -/
def hostCheck (name : String) (e : ErrCode) : List HostLine :=
  [.bne name 0xF0 (e.code.setWidth 32 <<< 4) "FAIL"]

/-- A host at line `line` of its program, its variables (newest first), and the machine. -/
structure HostState where
  line : Nat
  vars : List (String × Word)
  machine : State
  deriving DecidableEq, Repr

/-- Why a host has no next turn. -/
inductive HostStop where
  /-- The program has no line here: the host has made its last access (70_reset_and_hazards.md R225). -/
  | ended
  /-- The schedule has no event left and the program still has a line: the run has not ended. -/
  | unfinished
  /-- A branch on a name no `RD` has bound, or to a label the program does not define: no program of R90. -/
  | noSuchName
  /-- The machine stopped with a fault. -/
  | machineFault (f : Fault)
  /-- The machine answered no meaning. -/
  | machineRefused (r : Refusal)
  deriving DecidableEq, Repr

/-- One host line (R90): a write or a read is one access of the block, a branch and a label are none. -/
def hostTurn (prog : List HostLine) (h : HostState) : Except HostStop HostState :=
  match prog[h.line]? with
  | none => .error .ended
  | some (.label _) => .ok { h with line := h.line + 1 }
  | some (.wr r v) =>
    match busWrite r v h.machine with
    | .next m => .ok { h with line := h.line + 1, machine := m }
    | .fault f => .error (.machineFault f)
    | .refused x => .error (.machineRefused x)
  | some (.rd r name) =>
    let m := h.machine.busRead r
    .ok { line := h.line + 1, vars := (name, m.rdata) :: h.vars, machine := m }
  | some (.bne name mask value target) =>
    match h.vars.lookup name, prog.findIdx? (fun l => l == .label target) with
    | some v, some k => .ok { h with line := if v &&& mask = value then h.line + 1 else k }
    | _, _ => .error .noSuchName

/-- Who moves next beside a host that runs a program: the host, the engine, or the platform's reset input
(20_memory.md R62, 70_reset_and_hazards.md R210). -/
inductive HostEvent where
  | host
  | engine
  | reset
  deriving DecidableEq, Repr

/-- Whether the host's next line is an access of the block (30_encoding.md R90). -/
def HostState.accesses (prog : List HostLine) (h : HostState) : Bool :=
  match prog[h.line]? with
  | some (.wr _ _) => true
  | some (.rd _ _) => true
  | _ => false

/-- The machine where the run of a host program ends: right after the host's last access, or at the start where it makes
none (70_reset_and_hazards.md R225). `last` is the machine after the last access so far. What the engine does after the
last access, and before the host reaches the end of its program, is no part of the run. -/
def endOfHostRun (prog : List HostLine) : List HostEvent → HostState → State → Except HostStop State
  | [], h, last =>
    match hostTurn prog h with
    | .error .ended => .ok last
    | .error e => .error e
    | .ok _ => .error .unfinished
  | .host :: rest, h, last =>
    match hostTurn prog h with
    | .error .ended => .ok last
    | .error e => .error e
    | .ok g => endOfHostRun prog rest g (if h.accesses prog then g.machine else last)
  | .engine :: rest, h, last =>
    match engineStep h.machine with
    | .next m => endOfHostRun prog rest { h with machine := m } last
    | .fault f => .error (.machineFault f)
    | .refused r => .error (.machineRefused r)
  | .reset :: rest, h, last => endOfHostRun prog rest { h with machine := h.machine.applyReset } last

end Sys2Proof.Machine
end

