-- ==== Sys2Proof/Machine/Run.lean ====
section
/-!
DEFINITION. Runs of the machine and where a run ends: right after the host's last access
(spec/70_reset_and_hazards.md R225).
-/

namespace Sys2Proof.Machine

/-- `n` steps in a row, stopping at a fault. -/
def stepRun : Nat → State → Host.Outcome State Fault Refusal
  | 0, s => .next s
  | n + 1, s =>
    match step s with
    | .next t => stepRun n t
    | .fault f => .fault f
    | .refused r => .refused r

/-- A host access of the block: a read or a write. An engine turn and the platform's reset are none. -/
def Move.isAccess : Move → Bool
  | .read _ => true
  | .write _ _ => true
  | .engine => false
  | .reset => false

/-- How many moves there are up to the last host access, that one included; 0 where there is none. -/
def movesToLastAccess : List Move → Nat
  | [] => 0
  | m :: rest =>
    if movesToLastAccess rest = 0 then (if m.isAccess then 1 else 0)
    else movesToLastAccess rest + 1

/-- The state where the run from `s` ends: "when the host has made its last access" (R225). Later engine turns, and
resets after it, are no part of the run. -/
def State.endOfRun (s : State) : Host.Outcome State Fault Refusal :=
  stepRun (movesToLastAccess s.moves) s

end Sys2Proof.Machine
end

