-- ==== Sys2Proof/Safety.lean ====
section
/-!
DEFINITION. What counts as a successful run and what of it is observed (spec/70_reset_and_hazards.md R225), and the
invariant of the machine: the relations between its registers that the spec states.
-/

namespace Sys2Proof.Machine

/-- What R225 asks at the point where a run ends: `BUSY = 0`, `FAULT` clear, `REFUSED` clear. It is a condition on that
one state; whether a run is final is `State.isFinal` or `hostRunIsFinal`. -/
def State.endsClean (s : State) : Bool :=
  !s.status.busy && !s.faulted && !s.refused

/-- The run from `s` is final (R225): the state right after the last host access of its moves meets `endsClean`. A
command still running there makes the run not final, even where the engine ends it later. -/
def State.isFinal (s : State) : Bool :=
  match s.endOfRun with
  | .next t => t.endsClean
  | _ => false

/-- The run of a host program from `h` under a schedule is final (R225): the program ended (`HostStop.ended`), and the
machine right after its last access meets `endsClean`. -/
def hostRunIsFinal (prog : List HostLine) (schedule : List HostEvent) (h : HostState) : Bool :=
  match endOfHostRun prog schedule h h.machine with
  | .ok t => t.endsClean
  | .error _ => false

/-- The observation of R225: `STATUS`, `AOUT0` to `AOUT3` where `OUT_VALID = 1`, and `CTX_VALID`. -/
structure Observation where
  status : Word
  aout : Option Block
  ctxValid : Bool
  deriving DecidableEq, Repr

/-- What of a state is observed (R225). The hidden registers are not. -/
def State.observe (s : State) : Observation where
  status := statusWord s.status
  aout := if s.status.outValid then some s.ob else none
  ctxValid := s.status.ctxValid

/-- The observation of the run from `s`: that of the state where it ends, if the run is final; R225 says nothing of any
other run. -/
def State.finalObservation (s : State) : Option Observation :=
  match s.endOfRun with
  | .next t => if t.endsClean then some t.observe else none
  | _ => none

/-- The observation of a host program's run, if it is final (R225). -/
def hostObservation (prog : List HostLine) (schedule : List HostEvent) (h : HostState) : Option Observation :=
  match endOfHostRun prog schedule h h.machine with
  | .ok t => if t.endsClean then some t.observe else none
  | .error _ => none

/-- The machine's invariant. It holds at reset and every step keeps it; a state without it is one no run reaches. -/
structure State.Inv (s : State) : Prop where
  /-- "It is `IDLE` exactly when `STATUS.BUSY = 0`" (10_state.md R28). -/
  busy_iff : s.status.busy = true ↔ s.phase ≠ .idle
  /-- The `STATUS` writes of acceptance stand until completion (60_exceptions.md R181). -/
  running : s.status.busy = true →
    s.status.done = false ∧ s.status.err = .none ∧ s.status.outValid = false
  /-- After acceptance of KEYSETUP no context is valid and the split key waits for its oracle call
  (40_key_setup.md R100, R101). -/
  runKey : s.phase = .runKey →
    s.status.ctxValid = false ∧ bcKeyOk s.params s.ck = true ∧
      s.ck = substr 256 s.cur.keySnap 0 ∧ s.pad = substr 256 s.cur.keySnap 32
  /-- In the IPv4 loop the block of the current position is built (41_ipv4.md R122, 60_exceptions.md R182). -/
  runV4 : s.phase = .runV4 →
    s.status.ctxValid = true ∧ s.pos.toNat ≤ 31 ∧ s.blk = v4Block s.pp (low32 s.wr) s.pos.toNat
  /-- In the IPv6 loop the block of the current position is built (42_ipv6.md R141, 60_exceptions.md R182). -/
  runV6 : s.phase = .runV6 →
    s.status.ctxValid = true ∧ s.blk = v6Block s.pp s.wr s.pos.toNat
  /-- A result belongs to a completed anonymize command; a 4-byte one has 12 zero bytes after it
  (10_state.md R22, R25). -/
  result : s.status.outValid = true →
    s.status.done = true ∧ s.status.err = .none ∧
      (s.status.outLen = 16 ∨ s.status.outLen = 4 ∧ substr 96 s.ob 4 = 0)
  /-- Without a result `OUT_LEN` is 0 (10_state.md R22). -/
  noResult : s.status.outValid = false → s.status.outLen = 0
  /-- Before any completion there is no error and, when idle, no context (10_state.md R22, R32, R40). -/
  notDone : s.status.done = false →
    s.status.err = .none ∧ (s.status.busy = false → s.status.ctxValid = false)
  /-- A command that completed without error leaves a context valid (40_key_setup.md R108, 60_exceptions.md R189). -/
  succeeded : s.status.done = true → s.status.err = .none → s.status.ctxValid = true
  /-- After these errors no context is valid (60_exceptions.md R189, R191). -/
  contextLost :
    s.status.err = .invalidKeyLength ∨ s.status.err = .keyDerivationFailed ∨ s.status.err = .noContext →
      s.status.ctxValid = false
  /-- `INVALID_ADDRESS` is raised after the context check and keeps the context (60_exceptions.md R183, R191). -/
  contextKept : s.status.err = .invalidAddress → s.status.ctxValid = true
  /-- A valid context was derived from some pad seed under an accepted key (10_state.md R30 to R32). -/
  context : s.status.ctxValid = true →
    bcKeyOk s.params s.ck = true ∧ s.pp = substr 32 s.pad 0 ∧
      ∃ seed : Block, substr 128 s.pad 0 = s.oracle seed

end Sys2Proof.Machine
end

