-- ==== Sys2Proof/Certificates/Slice0/Obligations.lean ====
section
/-!
DEFINITION. The statements for the provers, in the order of spec/'s files. Each docstring names the rule it formalises;
the titles and bases are in OBLIGATIONS.json.
-/

open Sys2Proof Sys2Proof.Machine

/-! ### Parameters, register window, byte order -/

/-- 00_scope.md R6, 40_key_setup.md R102: every cipher and every key check is some value of the model's parameter data,
so a statement about every state is a statement about every `P_BC` and every `P_BC_KEY_OK`. -/
def Obligations.EveryCipherIsAParameter : Prop :=
  ∀ (f : Key256 → Block → Block) (g : Key256 → Bool),
    ∃ p : Params, (∀ k b, bcValue p k b = f k b) ∧ ∀ k, bcKeyOk p k = g k

/-- 10_state.md R22: the places of the fields in the `STATUS` word; the bits above them read 0. -/
def Obligations.StatusWordLayout : Prop :=
  ∀ st : Status,
    (statusWord st).toNat =
      st.busy.toNat + 2 * st.done.toNat + 4 * st.ctxValid.toNat + 8 * st.outValid.toNat +
        16 * st.err.code.toNat + 256 * st.outLen.toNat

/-- 30_encoding.md R84: the numbers of the error codes; codes 6 to 15 are never produced. -/
def Obligations.ErrorCodeNumbers : Prop :=
  ErrCode.none.code = 0 ∧ ErrCode.invalidKeyLength.code = 1 ∧ ErrCode.keyDerivationFailed.code = 2 ∧
    ErrCode.invalidAddress.code = 3 ∧ ErrCode.noContext.code = 4 ∧ ErrCode.illegalCommand.code = 5 ∧
    ∀ e : ErrCode, e.code.toNat ≤ 5

/-- 20_memory.md R51, R52, R56: each register has its offset, each multiple of 4 its register, no other offset has one,
and the window's addresses are `P_BASE` plus the offsets, on a bus without a wrap (the model's choice, log 17). -/
def Obligations.RegisterMap : Prop :=
  Reg.cmd.offset.toNat = 0x00 ∧ Reg.status.offset.toNat = 0x04 ∧
    (∀ i : Fin 16, (Reg.key i).offset.toNat = 0x10 + 4 * i.val) ∧
    (∀ i : Fin 4, (Reg.ain i).offset.toNat = 0x50 + 4 * i.val) ∧
    (∀ i : Fin 4, (Reg.aout i).offset.toNat = 0x60 + 4 * i.val) ∧
    (∀ r : Reg, Reg.atOffset r.offset = some r) ∧
    (∀ (off : BitVec 7) (r : Reg), Reg.atOffset off = some r → r.offset = off) ∧
    (∀ off : BitVec 7, Reg.atOffset off = none ↔ off.toNat % 4 ≠ 0) ∧
    (∀ (base : Nat) (r : Reg), Reg.atAddress base (r.address base) = some r) ∧
    ∀ base addr : Nat, Reg.atAddress base addr =
      if base ≤ addr ∧ addr < base + 128 then Reg.atOffset (BitVec.ofNat 7 (addr - base)) else none

/-- 20_memory.md R53: byte `4i + j` of `KB`, `IB` and `OB` is in bits `31 - 8j` to `24 - 8j` of register `i`. -/
def Obligations.BigEndianPacking : Prop :=
  (∀ (k : Vector Word 16) (i : Fin 16) (j : Fin 4),
      substr 8 (keyBuffer k) (4 * i.val + j.val) = k[i].extractLsb' (24 - 8 * j.val) 8) ∧
    (∀ (a : Vector Word 4) (i j : Fin 4),
      substr 8 (inputBuffer a) (4 * i.val + j.val) = a[i].extractLsb' (24 - 8 * j.val) 8) ∧
    ∀ (s : State) (i j : Fin 4), s.status.outValid = true →
      substr 8 s.ob (4 * i.val + j.val) = (s.readValue (.aout i)).extractLsb' (24 - 8 * j.val) 8

/-! ### The command word -/

/-- 30_encoding.md R80, R82, R85: decoding the word of a well-formed command gives it back. -/
def Obligations.DecodeEncodeAgree : Prop :=
  ∀ i : Instr, i.wellFormed = true → decode (encode i) = .ok i

/-- 30_encoding.md R83, R85: a legal word is the word of the well-formed command it decodes to, so no two words decode
to one command. -/
def Obligations.EncodeDecodeAgree : Prop :=
  ∀ (w : Word) (i : Instr), decode w = .ok i → i.wellFormed = true ∧ encode i = w

/-- 30_encoding.md R85: `decode` on all 2^32 words, its fields taken by division. -/
def Obligations.DecodeIsTotal : Prop :=
  ∀ w : Word,
    let op := w.toNat % 16
    let res0 := w.toNat / 16 % 16
    let len := w.toNat / 256 % 256
    let res1 := w.toNat / 65536
    (res0 ≠ 0 ∨ res1 ≠ 0 ∨ op = 0 ∨ 5 ≤ op → ∃ e, decode w = .error e) ∧
      (res0 = 0 → res1 = 0 → op = 1 → decode w = .ok (.keysetup len)) ∧
      (res0 = 0 → res1 = 0 → op = 2 → decode w = .ok (.anonV4 len)) ∧
      (res0 = 0 → res1 = 0 → op = 3 → decode w = .ok (.anonV6 len)) ∧
      (res0 = 0 → res1 = 0 → op = 4 → decode w = .ok (.anon len))

/-- 30_encoding.md R89: the words of the valid commands at their passing lengths. -/
def Obligations.PassingWords : Prop :=
  decode 0x00004001#32 = .ok (.keysetup 64) ∧ encode (.keysetup 64) = 0x00004001#32 ∧
    decode 0x00000402#32 = .ok (.anonV4 4) ∧ encode (.anonV4 4) = 0x00000402#32 ∧
    decode 0x00001002#32 = .ok (.anonV4 16) ∧ encode (.anonV4 16) = 0x00001002#32 ∧
    decode 0x00001003#32 = .ok (.anonV6 16) ∧ encode (.anonV6 16) = 0x00001003#32 ∧
    decode 0x00000404#32 = .ok (.anon 4) ∧ encode (.anon 4) = 0x00000404#32 ∧
    decode 0x00001004#32 = .ok (.anon 16) ∧ encode (.anon 16) = 0x00001004#32

/-! ### Steps and reset -/

/-- 60_exceptions.md R181: when the next move is a host write of a legal word to `CMD`, the step is that command, with
the move taken off the schedule. -/
def Obligations.StepRunsDecodedCommand : Prop :=
  ∀ (s : State) (w : Word) (rest : List Move) (i : Instr),
    s.moves = .write .cmd w :: rest → decode w = .ok i →
      step s = exec i { s with moves := rest }

/-- 20_memory.md R62, 60_exceptions.md R182 (the schedule is the model's, log 1): an engine move, or no move at all, is
one engine turn; an idle engine does nothing; a busy one has exactly the step of its phase, and stops in the state that
10_state.md R28 rules out (the model's choice, log 15). -/
def Obligations.EngineTurnsAreServed : Prop :=
  (∀ s : State, s.moves = [] → step s = engineStep s) ∧
    (∀ (s : State) (rest : List Move), s.moves = .engine :: rest →
      step s = engineStep { s with moves := rest }) ∧
    (∀ s : State, s.status.busy = false → engineStep s = .next s) ∧
    ∀ s : State, s.status.busy = true →
      (s.phase = .runKey → engineStep s = .next s.keyStep) ∧
        (s.phase = .runV4 → engineStep s = .next s.stepV4) ∧
        (s.phase = .runV6 → engineStep s = .next s.stepV6) ∧
        (s.phase = .idle → engineStep s = .fault .engineOutOfPhase)

/-- 10_state.md R40: the values the spec gives the initial state. The registers it leaves unspecified are not
mentioned. -/
def Obligations.ResetStateValues : Prop :=
  statusWord State.reset.status = 0 ∧ State.reset.phase = .idle ∧ State.reset.status.ctxValid = false ∧
    (∀ i : Fin 16, State.reset.keyWritten[i] = false) ∧
    (∀ i : Fin 4, State.reset.ainWritten[i] = false) ∧
    State.reset.faulted = false ∧ State.reset.refused = false

/-- 70_reset_and_hazards.md R210: the reset input is one step that gives the reset values and keeps the two marks, and
the initial state has those values with the marks clear. The registers the rule leaves unspecified are not mentioned. -/
def Obligations.ResetInput : Prop :=
  (∀ (s : State) (rest : List Move), s.moves = .reset :: rest →
      ∃ t, step s = .next t ∧ statusWord t.status = 0 ∧ t.phase = .idle ∧ t.status.ctxValid = false ∧
        (∀ i : Fin 16, t.keyWritten[i] = false) ∧ (∀ i : Fin 4, t.ainWritten[i] = false) ∧
        t.faulted = s.faulted ∧ t.refused = s.refused) ∧
    statusWord State.reset.status = 0 ∧ State.reset.phase = .idle ∧ State.reset.status.ctxValid = false ∧
    (∀ i : Fin 16, State.reset.keyWritten[i] = false) ∧ (∀ i : Fin 4, State.reset.ainWritten[i] = false) ∧
    State.reset.faulted = false ∧ State.reset.refused = false

/-- 70_reset_and_hazards.md R211: a reset while busy aborts the command: none of its remaining steps runs, and neither a
result nor a context of it can be used. -/
def Obligations.ResetAbortsRunningCommand : Prop :=
  ∀ (s : State) (rest : List Move), s.status.busy = true → s.moves = .reset :: rest →
    ∃ t, step s = .next t ∧ t.status.done = false ∧ t.status.outValid = false ∧ t.status.ctxValid = false ∧
      (∀ n, engineRun n t = .next t) ∧
      ∀ len, (∃ u, exec (.anonV4 len) t = .next u ∧ u.status.err = .noContext ∧ u.status.done = true) ∧
        (∃ u, exec (.anonV6 len) t = .next u ∧ u.status.err = .noContext ∧ u.status.done = true) ∧
        ∃ u, exec (.anon len) t = .next u ∧ u.status.err = .noContext ∧ u.status.done = true

/-! ### KEYSETUP -/

/-- 40_key_setup.md R100, R101, R104, R105, R107, R108 with 60_exceptions.md R182: KEYSETUP of 64 bytes under an
accepted key is accepted, waits in `RUN_KEY`, and its one engine step leaves the derived context and nothing else
changed. Where a `KEYi` is unwritten the mark is set and the register's value is used (the model's, log 7); `CUR`
stays latched (the model's, log 25). -/
def Obligations.KeysetupDerivesContext : Prop :=
  ∀ s : State,
    let K := keyBuffer s.key
    let enc := bcValue s.params (K.extractLsb' 256 256) (K.extractLsb' 128 128)
    s.status.busy = false → bcKeyOk s.params (K.extractLsb' 256 256) = true →
      ∃ t, exec (.keysetup 64) s = .next t ∧ t.phase = .runKey ∧ statusWord t.status = 1 ∧
        engineStep t = .next
          { s with
            status := { busy := false, done := true, ctxValid := true, outValid := false, err := .none, outLen := 0 }
            cur := { s.cur with op := 1, len := 64, keySnap := K }
            phase := .idle
            ck := K.extractLsb' 256 256
            pad := joinAs 256 enc (K.extractLsb' 0 128)
            pp := enc.extractLsb' 96 32
            faulted := s.faulted || s.keyUnwritten }

/-- 60_exceptions.md R186, R191: `INVALID_KEY_LENGTH` exactly when `LEN ≠ 64`; the context is lost, the key buffer is
copied and not used, and nothing else changes. That `CUR` stays latched is the model's choice (log 25). -/
def Obligations.KeysetupWrongLength : Prop :=
  ∀ (s : State) (len : Nat), s.status.busy = false →
    (∃ t, exec (.keysetup len) s = .next t ∧ (t.status.err = .invalidKeyLength ↔ len ≠ 64)) ∧
      (len ≠ 64 → exec (.keysetup len) s = .next
        { s with
          status := { busy := false, done := true, ctxValid := false, outValid := false,
                      err := .invalidKeyLength, outLen := 0 }
          cur := { s.cur with op := 1, len := BitVec.ofNat 8 len, keySnap := keyBuffer s.key }
          phase := .idle })

/-- 60_exceptions.md R187, R191, 40_key_setup.md R103: `KEY_DERIVATION_FAILED` exactly when `LEN = 64` and the cipher
rejects the key; `CK` and `PAD` hold the split of the new key, `PP` is kept. The mark for unwritten words is that of
R183, R203 and 10_state.md R39; that the check runs on over the value of an unwritten `KEYi` is the model's (log 7),
and so is that `CUR` stays latched (log 25). -/
def Obligations.KeysetupRejectedKey : Prop :=
  ∀ (s : State) (len : Nat), s.status.busy = false →
    let K := keyBuffer s.key
    (∃ t, exec (.keysetup len) s = .next t ∧
        (t.status.err = .keyDerivationFailed ↔ len = 64 ∧ bcKeyOk s.params (K.extractLsb' 256 256) = false)) ∧
      (len = 64 → bcKeyOk s.params (K.extractLsb' 256 256) = false → exec (.keysetup len) s = .next
        { s with
          status := { busy := false, done := true, ctxValid := false, outValid := false,
                      err := .keyDerivationFailed, outLen := 0 }
          cur := { s.cur with op := 1, len := 64, keySnap := K }
          phase := .idle
          ck := K.extractLsb' 256 256
          pad := K.extractLsb' 0 256
          faulted := s.faulted || s.keyUnwritten })

/-- 40_key_setup.md R109: whatever its outcome, acceptance of KEYSETUP clears `CTX_VALID`, so after a failed one every
anonymize command of any length finds no context. -/
def Obligations.FailedKeysetupLeavesNoContext : Prop :=
  ∀ (s : State) (len : Nat), s.status.busy = false →
    ∃ t, exec (.keysetup len) s = .next t ∧ t.status.ctxValid = false ∧
      (t.status.err ≠ .none → ∀ n,
        (∃ u, exec (.anonV4 n) t = .next u ∧ u.status.err = .noContext) ∧
          (∃ u, exec (.anonV6 n) t = .next u ∧ u.status.err = .noContext) ∧
          ∃ u, exec (.anon n) t = .next u ∧ u.status.err = .noContext)

/-- 40_key_setup.md R110: two KEYSETUPs with equal keys, each completing without error, leave equal `CK`, `PAD` and
`PP`, whatever else differs between the states they ran in, unwritten words included (the model's, log 7). -/
def Obligations.KeyDerivationIsDeterministic : Prop :=
  ∀ s₁ s₂ : State, s₁.status.busy = false → s₂.status.busy = false →
    s₁.params = s₂.params → (∀ i : Fin 16, s₁.key[i] = s₂.key[i]) →
    bcKeyOk s₁.params ((keyBuffer s₁.key).extractLsb' 256 256) = true →
      ∃ t₁ t₂ u₁ u₂, exec (.keysetup 64) s₁ = .next t₁ ∧ engineRun 1 t₁ = .next u₁ ∧
        exec (.keysetup 64) s₂ = .next t₂ ∧ engineRun 1 t₂ = .next u₂ ∧
        u₁.status.err = .none ∧ u₂.status.err = .none ∧ u₁.status.ctxValid = true ∧ u₂.status.ctxValid = true ∧
        u₁.ck = u₂.ck ∧ u₁.pad = u₂.pad ∧ u₁.pp = u₂.pp

/-- 40_key_setup.md R104, R105, R107, 60_exceptions.md R182, R184: the engine step of `RUN_KEY` in every state. That it
keeps `CUR` and the datapath, which the spec leaves open after completion, is the model's choice (log 25). -/
def Obligations.RunKeyEngineStep : Prop :=
  ∀ s : State, s.status.busy = true → s.phase = .runKey →
    let enc := bcValue s.params s.ck (s.pad.extractLsb' 128 128)
    engineStep s = .next
      { s with
        status := { s.status with busy := false, done := true, ctxValid := true }
        phase := .idle
        pad := joinAs 256 enc (s.pad.extractLsb' 0 128)
        pp := enc.extractLsb' 96 32 }

/-! ### The anonymize commands -/

/-- 43_dispatch.md R162: `mapped(S)` byte by byte, and on the `AIN` words. -/
def Obligations.MappedPredicate : Prop :=
  (∀ S : Block, mapped S = true ↔
      (∀ i : Fin 10, substr 8 S i.val = 0x00#8) ∧ substr 8 S 10 = 0xFF#8 ∧ substr 8 S 11 = 0xFF#8) ∧
    ∀ a : Vector Word 4,
      mapped (inputBuffer a) = true ↔ a[0] = 0 ∧ a[1] = 0 ∧ a[2] = 0x0000FFFF#32

/-- 60_exceptions.md R189, R183: `NO_CONTEXT` exactly when `CTX_VALID = 0`, before any look at the operand; only
`STATUS` and `CUR` are written, and `CUR` stays latched (the model's choice, log 25). -/
def Obligations.NoContextIsRaised : Prop :=
  ∀ (s : State) (len : Nat) (i : Instr) (op : BitVec 4), s.status.busy = false →
    (i = .anonV4 len ∧ op = 2 ∨ i = .anonV6 len ∧ op = 3 ∨ i = .anon len ∧ op = 4) →
      (∃ t, exec i s = .next t ∧ (t.status.err = .noContext ↔ s.status.ctxValid = false)) ∧
        (s.status.ctxValid = false → exec i s = .next
          { s with
            status := { busy := false, done := true, ctxValid := false, outValid := false,
                        err := .noContext, outLen := 0 }
            cur := { s.cur with op := op, len := BitVec.ofNat 8 len, inSnap := inputBuffer s.ain }
            phase := .idle })

/-- 60_exceptions.md R188, 42_ipv6.md R146: when the three anonymize commands raise `INVALID_ADDRESS` in a valid
context, which they leave as it is. -/
def Obligations.InvalidAddressIsRaised : Prop :=
  ∀ (s : State) (len : Nat), s.status.busy = false → s.status.ctxValid = true →
    let sameContext (t : State) : Prop :=
      t.ck = s.ck ∧ t.pad = s.pad ∧ t.pp = s.pp ∧ t.status.ctxValid = true ∧ t.params = s.params
    (∃ t, exec (.anonV4 len) s = .next t ∧ sameContext t ∧
        (t.status.err = .invalidAddress ↔
          len ≠ 4 ∧ len ≠ 16 ∨ len = 16 ∧ mapped (inputBuffer s.ain) = false)) ∧
      (∃ t, exec (.anonV6 len) s = .next t ∧ sameContext t ∧ (t.status.err = .invalidAddress ↔ len ≠ 16)) ∧
      ∃ t, exec (.anon len) s = .next t ∧ sameContext t ∧
        (t.status.err = .invalidAddress ↔ len ≠ 4 ∧ len ≠ 16)

/-- 41_ipv4.md R120 to R126 with 60_exceptions.md R182: ANON_V4 on a passing operand, a 4-byte address in `AIN0` or an
IPv4-mapped one in `AIN0` to `AIN3`, is busy for 32 engine steps and then delivers the image of the address;
everything but the datapath, `CUR`, `OB`, `STATUS` and the FAULT mark is unchanged. Where an `AINi` it reads is
unwritten the mark is set and the register's value is used (the model's, log 7); `CUR` stays latched (the model's,
log 25). -/
def Obligations.AnonV4Completes : Prop :=
  ∀ (s : State) (len : Nat) (a : Word) (embed : Bool),
    s.status.busy = false → s.status.ctxValid = true →
    (len = 4 ∧ a = s.ain[0] ∧ embed = false ∨
      len = 16 ∧ s.ain[0] = 0 ∧ s.ain[1] = 0 ∧ s.ain[2] = 0x0000FFFF#32 ∧ a = s.ain[3] ∧ embed = true) →
    ∃ t u, exec (.anonV4 len) s = .next t ∧ t.phase = .runV4 ∧
      (∀ n < 32, ∃ v, engineRun n t = .next v ∧ v.status.busy = true ∧ v.status.outValid = false) ∧
      engineRun 32 t = .next u ∧
      u.status = { busy := false, done := true, ctxValid := true, outValid := true, err := .none,
                   outLen := BitVec.ofNat 8 len } ∧
      u.phase = .idle ∧
      u.ob = (let r := v4Image s.contextOracle s.pp a
              if embed then joinWords 0 0 0x0000FFFF#32 r else joinWords r 0 0 0) ∧
      u.cur = { s.cur with op := 2, len := BitVec.ofNat 8 len, embed := embed, inSnap := inputBuffer s.ain } ∧
      u.faulted = (s.faulted || s.addressUnwritten len) ∧
      u.ck = s.ck ∧ u.pad = s.pad ∧ u.pp = s.pp ∧ u.key = s.key ∧ u.ain = s.ain ∧
      u.keyWritten = s.keyWritten ∧ u.ainWritten = s.ainWritten ∧ u.refused = s.refused ∧
      u.params = s.params ∧ u.moves = s.moves ∧ u.rdata = s.rdata

/-- 42_ipv6.md R140 to R146 with 60_exceptions.md R182: ANON_V6 of 16 bytes is busy for 128 engine steps and then
delivers the image of the address, mapped or not; everything but the datapath, `CUR`, `OB`, `STATUS` and the FAULT mark
is unchanged. Where an `AINi` it reads is unwritten the mark is set and the register's value
is used (the model's, log 7); `CUR` stays latched (the model's, log 25). -/
def Obligations.AnonV6Completes : Prop :=
  ∀ s : State, s.status.busy = false → s.status.ctxValid = true →
    ∃ t u, exec (.anonV6 16) s = .next t ∧ t.phase = .runV6 ∧
      (∀ n < 128, ∃ v, engineRun n t = .next v ∧ v.status.busy = true ∧ v.status.outValid = false) ∧
      engineRun 128 t = .next u ∧
      u.status = { busy := false, done := true, ctxValid := true, outValid := true, err := .none, outLen := 16 } ∧
      u.phase = .idle ∧
      u.ob = v6Image s.contextOracle s.pp (inputBuffer s.ain) ∧
      u.cur = { s.cur with op := 3, len := 16, inSnap := inputBuffer s.ain } ∧
      u.faulted = (s.faulted || s.addressUnwritten 16) ∧
      u.ck = s.ck ∧ u.pad = s.pad ∧ u.pp = s.pp ∧ u.key = s.key ∧ u.ain = s.ain ∧
      u.keyWritten = s.keyWritten ∧ u.ainWritten = s.ainWritten ∧ u.refused = s.refused ∧
      u.params = s.params ∧ u.moves = s.moves ∧ u.rdata = s.rdata

/-- 43_dispatch.md R160 to R164: ANON of 4 or 16 bytes completes with a result of the operand's own width: the IPv4
image for a 4-byte or IPv4-mapped operand after 32 engine steps, the IPv6 image for any other after 128. Where an
`AINi` it reads is unwritten the mark is set and the register's value is used (the model's, log 7). -/
def Obligations.AnonCompletes : Prop :=
  ∀ (s : State) (len : Nat), s.status.busy = false → s.status.ctxValid = true → (len = 4 ∨ len = 16) →
    let v4 := len = 4 ∨ mapped (inputBuffer s.ain) = true
    ∃ t u, exec (.anon len) s = .next t ∧
      (v4 → engineRun 32 t = .next u ∧ t.phase = .runV4) ∧
      (¬v4 → engineRun 128 t = .next u ∧ t.phase = .runV6) ∧
      u.status = { busy := false, done := true, ctxValid := true, outValid := true, err := .none,
                   outLen := BitVec.ofNat 8 len } ∧
      u.phase = .idle ∧
      (len = 4 → u.ob = joinWords (v4Image s.contextOracle s.pp s.ain[0]) 0 0 0) ∧
      (len = 16 → mapped (inputBuffer s.ain) = true →
        u.ob = joinWords 0 0 0x0000FFFF#32 (v4Image s.contextOracle s.pp s.ain[3])) ∧
      (len = 16 → mapped (inputBuffer s.ain) = false →
        u.ob = v6Image s.contextOracle s.pp (inputBuffer s.ain)) ∧
      u.faulted = (s.faulted || s.addressUnwritten len) ∧
      u.ck = s.ck ∧ u.pad = s.pad ∧ u.pp = s.pp ∧ u.key = s.key ∧ u.ain = s.ain ∧
      u.keyWritten = s.keyWritten ∧ u.ainWritten = s.ainWritten ∧ u.refused = s.refused ∧
      u.params = s.params ∧ u.moves = s.moves ∧ u.rdata = s.rdata

/-- 43_dispatch.md R165: ANON does what the typed command of the operand's class does; only the latched opcode differs.
This holds with and without a context, and with unwritten words, where both run on (the model's, log 7); `CUR` stays
latched after an error (the model's, log 25). -/
def Obligations.AnonAgreesWithTypedCommands : Prop :=
  ∀ (s : State) (len : Nat), s.status.busy = false →
    let asAnon (t : State) : State := { t with cur := { t.cur with op := 4 } }
    (len = 4 ∨ len = 16 ∧ mapped (inputBuffer s.ain) = true →
        ∃ t, exec (.anonV4 len) s = .next t ∧ exec (.anon len) s = .next (asAnon t)) ∧
      (len = 16 → mapped (inputBuffer s.ain) = false →
        ∃ t, exec (.anonV6 len) s = .next t ∧ exec (.anon len) s = .next (asAnon t)) ∧
      (len ≠ 4 → len ≠ 16 →
        ∃ t u, exec (.anonV4 len) s = .next t ∧ exec (.anonV6 len) s = .next u ∧
          exec (.anon len) s = .next (asAnon t) ∧ exec (.anon len) s = .next (asAnon u))

/-- 60_exceptions.md R203, R183, 10_state.md R39 (the marks are the spec's own bookkeeping; that the run goes on is the
model's, log 7): which commands set `FAULT`, KEYSETUP with or without a context, the others in a valid one. -/
def Obligations.UnwrittenOperandsAreMarked : Prop :=
  ∀ (s : State) (len : Nat), s.status.busy = false →
    let unwritten := (len = 4 ∧ s.ainWritten[0] = false) ∨ (len = 16 ∧ ∃ i : Fin 4, s.ainWritten[i] = false)
    (∃ t, exec (.keysetup len) s = .next t ∧
        (t.faulted = true ↔ s.faulted = true ∨ len = 64 ∧ ∃ i : Fin 16, s.keyWritten[i] = false)) ∧
      (s.status.ctxValid = true →
        (∃ t, exec (.anonV4 len) s = .next t ∧ (t.faulted = true ↔ s.faulted = true ∨ unwritten)) ∧
          (∃ t, exec (.anonV6 len) s = .next t ∧
            (t.faulted = true ↔ s.faulted = true ∨ len = 16 ∧ unwritten)) ∧
          ∃ t, exec (.anon len) s = .next t ∧ (t.faulted = true ↔ s.faulted = true ∨ unwritten)) ∧
      (s.status.ctxValid = false →
        (∃ t, exec (.anonV4 len) s = .next t ∧ t.faulted = s.faulted) ∧
          (∃ t, exec (.anonV6 len) s = .next t ∧ t.faulted = s.faulted) ∧
          ∃ t, exec (.anon len) s = .next t ∧ t.faulted = s.faulted)

/-- 41_ipv4.md R131: ANON_V4 with equal cipher, `CK`, `PP`, `LEN` and input words gives equal `OB` and `OUT_LEN`,
whatever else differs, unwritten words included (the model's, log 7). -/
def Obligations.AnonV4IsDeterministic : Prop :=
  ∀ (s₁ s₂ : State) (len : Nat), s₁.status.busy = false → s₂.status.busy = false →
    s₁.status.ctxValid = true → s₂.status.ctxValid = true → s₁.params = s₂.params → s₁.ck = s₂.ck → s₁.pp = s₂.pp →
    (len = 4 ∧ s₁.ain[0] = s₂.ain[0] ∨ len = 16 ∧ s₁.ain = s₂.ain ∧ mapped (inputBuffer s₁.ain) = true) →
      ∃ t₁ t₂ u₁ u₂, exec (.anonV4 len) s₁ = .next t₁ ∧ engineRun 32 t₁ = .next u₁ ∧
        exec (.anonV4 len) s₂ = .next t₂ ∧ engineRun 32 t₂ = .next u₂ ∧
        u₁.status.outValid = true ∧ u₁.ob = u₂.ob ∧ u₁.status.outLen = u₂.status.outLen

/-! ### The engine steps of the loops -/

/-- 41_ipv4.md R122 to R126, 60_exceptions.md R182: the engine step of `RUN_V4` in every state: one oracle call, the
bit, the merge, and either the next position and block or the result. What the registers outside their use hold
after the last step is not mentioned, but for `CUR`, which is kept (the model's choice, log 25). Above position 31,
where no run comes, the step completes as at 31 (the model's choice, log 15). -/
def Obligations.RunV4EngineStep : Prop :=
  ∀ s : State, s.status.busy = true → s.phase = .runV4 →
    let o := bcValue s.params s.ck s.blk
    let bit : BitVec 1 := o.extractLsb' 127 1
    let r : Word := s.wr.extractLsb' 0 32 ||| (bit.setWidth 32 <<< (31 - s.pos.toNat))
    (s.pos.toNat < 31 → engineStep s = .next
        { s with
          oblk := o
          bit := bit
          wr := joinAs 128 (s.wr.extractLsb' 32 96) r
          pos := s.pos + 1
          blk := v4Block s.pp r (s.pos.toNat + 1) }) ∧
      (31 ≤ s.pos.toNat → ∃ u, engineStep s = .next u ∧
        u.status = { s.status with busy := false, done := true, outValid := true,
                                   outLen := if s.cur.embed then 16 else 4 } ∧
        u.phase = .idle ∧ u.ob = (if s.cur.embed then joinWords 0 0 0x0000FFFF#32 r else joinWords r 0 0 0) ∧
        u.cur = s.cur ∧ u.ck = s.ck ∧ u.pad = s.pad ∧ u.pp = s.pp ∧ u.key = s.key ∧ u.ain = s.ain ∧
        u.keyWritten = s.keyWritten ∧ u.ainWritten = s.ainWritten ∧ u.faulted = s.faulted ∧
        u.refused = s.refused ∧ u.params = s.params ∧ u.moves = s.moves ∧ u.rdata = s.rdata)

/-- 42_ipv6.md R141 to R145, 60_exceptions.md R182: the engine step of `RUN_V6` in every state. What the registers
outside their use hold after the last step is not mentioned, but for `CUR`, which is kept (the model's choice, log
25). -/
def Obligations.RunV6EngineStep : Prop :=
  ∀ s : State, s.status.busy = true → s.phase = .runV6 →
    let o := bcValue s.params s.ck s.blk
    let bit : BitVec 1 := o.extractLsb' 127 1
    let r : Block := s.wr ||| (bit.setWidth 128 <<< (127 - s.pos.toNat))
    (s.pos.toNat < 127 → engineStep s = .next
        { s with oblk := o, bit := bit, wr := r, pos := s.pos + 1, blk := v6Block s.pp r (s.pos.toNat + 1) }) ∧
      (s.pos.toNat = 127 → ∃ u, engineStep s = .next u ∧
        u.status = { s.status with busy := false, done := true, outValid := true, outLen := 16 } ∧
        u.phase = .idle ∧ u.ob = r ∧
        u.cur = s.cur ∧ u.ck = s.ck ∧ u.pad = s.pad ∧ u.pp = s.pp ∧ u.key = s.key ∧ u.ain = s.ain ∧
        u.keyWritten = s.keyWritten ∧ u.ainWritten = s.ainWritten ∧ u.faulted = s.faulted ∧
        u.refused = s.refused ∧ u.params = s.params ∧ u.moves = s.moves ∧ u.rdata = s.rdata)

/-! ### Laws of the two pipelines, for every oracle -/

/-- 41_ipv4.md R122, R127: the whole IPv4 block at position p: byte 0 is the top byte of `PP`, bytes 5 to 15 are zero,
and the window in bytes 1 to 4 depends only on the original address and `PP`: window bits p and above are the
address's bits 0 to 31 - p, those below are the top p bits of `PP`. -/
def Obligations.V4WindowUsesOriginalBits : Prop :=
  ∀ (bc : Block → Block) (pp a : Word) (p : Nat), p ≤ 31 →
    v4Block pp (v4Loop bc pp a p) p = v4Block pp a p ∧
      substr 8 (v4Block pp (v4Loop bc pp a p) p) 0 = pp.extractLsb' 24 8 ∧
      substr 88 (v4Block pp (v4Loop bc pp a p) p) 5 = 0#88 ∧
      ∀ j < 32, (substr 32 (v4Block pp (v4Loop bc pp a p) p) 1).getLsbD j =
        if p ≤ j then a.getLsbD (j - p) else pp.getLsbD (32 - p + j)

/-- 41_ipv4.md R128: the IPv4 loop is an OR of the address with 32 independent oracle bits. -/
def Obligations.V4LoopIsOrOfOracleBits : Prop :=
  ∀ (bc : Block → Block) (pp a : Word), v4Image bc pp a = a ||| v4Bits bc pp a

/-- 41_ipv4.md R129: the result contains the input; all ones maps to itself and zero to the oracle bits alone. -/
def Obligations.V4ResultContainsInput : Prop :=
  ∀ (bc : Block → Block) (pp : Word),
    (∀ a : Word, v4Image bc pp a &&& a = a) ∧
      v4Image bc pp 0xFFFFFFFF#32 = 0xFFFFFFFF#32 ∧ v4Image bc pp 0 = v4Bits bc pp 0

/-- 41_ipv4.md R130: the IPv4 map is injective only if it is the identity. -/
def Obligations.V4InjectiveOnlyIfIdentity : Prop :=
  ∀ (bc : Block → Block) (pp : Word),
    Function.Injective (v4Image bc pp) → ∀ a : Word, v4Image bc pp a = a

/-- 42_ipv6.md R147: the content of the IPv6 block at each position, in terms of the original address and `PP`. -/
def Obligations.V6BlockContent : Prop :=
  ∀ (bc : Block → Block) (pp : Word) (a : Block) (p : Nat), p ≤ 127 →
    v6Block pp (v6Loop bc pp a p) p =
      joinAs 128 (joinAs 64 (pp.extractLsb' 24 8) 0#56)
        (if p ≤ 63 then (a.setWidth 64 <<< p : BitVec 64)
         else if p ≤ 96 then 0#64
         else (pp.setWidth 64 >>> (128 - p) : BitVec 64))

/-- 42_ipv6.md R148: the IPv6 loop is an OR of the address with 128 independent oracle bits, which depend only on its
low 64 bits; those at MSB-positions 64 to 127 depend on neither half, and the 33 at 64 to 96 are equal. -/
def Obligations.V6LoopIsOrOfOracleBits : Prop :=
  ∀ (bc : Block → Block) (pp : Word),
    (∀ a : Block, v6Image bc pp a = a ||| v6Bits bc pp (a.setWidth 64)) ∧
      (∀ x y : BitVec 64, (v6Bits bc pp x).setWidth 64 = (v6Bits bc pp y).setWidth 64) ∧
      ∀ (x : BitVec 64) (p : Nat), 64 ≤ p → p ≤ 96 →
        (v6Bits bc pp x).getLsbD (127 - p) = (v6Bits bc pp x).getLsbD 63

/-- 42_ipv6.md R149: the IPv6 result contains the input, and the map is injective only if it is the identity. -/
def Obligations.V6ContainmentAndInjectivity : Prop :=
  ∀ (bc : Block → Block) (pp : Word),
    (∀ a : Block, v6Image bc pp a &&& a = a) ∧
      v6Image bc pp (BitVec.allOnes 128) = BitVec.allOnes 128 ∧
      (Function.Injective (v6Image bc pp) → ∀ a : Block, v6Image bc pp a = a)

/-! ### Errors, counts and frames -/

/-- 60_exceptions.md R190, 30_encoding.md R83: an illegal word written while idle completes at once with
`ILLEGAL_COMMAND`; but for `STATUS` nothing is written. -/
def Obligations.IllegalWordCompletesAtOnce : Prop :=
  ∀ (s : State) (w : Word) (rest : List Move),
    let op := w.toNat % 16
    s.moves = .write .cmd w :: rest → s.status.busy = false →
    (op = 0 ∨ 5 ≤ op ∨ w.toNat / 16 % 16 ≠ 0 ∨ w.toNat / 65536 ≠ 0) →
      step s = .next
        { s with
          moves := rest
          phase := .idle
          status := { s.status with busy := false, done := true, outValid := false,
                                    err := .illegalCommand, outLen := 0 } }

/-- 60_exceptions.md R191: the state after each error of a command, and after an illegal word. -/
def Obligations.ErrorsArePrecise : Prop :=
  ∀ s : State, s.status.busy = false →
    (∀ i : Instr, ∃ t, exec i s = .next t ∧ (t.status.err ≠ .none →
      t.status.busy = false ∧ t.status.done = true ∧ t.status.outValid = false ∧ t.status.outLen = 0 ∧
        t.ob = s.ob ∧ t.key = s.key ∧ t.ain = s.ain ∧ t.pp = s.pp ∧
        (t.status.err = .noContext ∨ t.status.err = .invalidAddress →
          t.status.ctxValid = s.status.ctxValid ∧ t.ck = s.ck ∧ t.pad = s.pad) ∧
        (t.status.err = .noContext → t.status.ctxValid = false) ∧
        (t.status.err = .invalidKeyLength → t.status.ctxValid = false ∧ t.ck = s.ck ∧ t.pad = s.pad) ∧
        (t.status.err = .keyDerivationFailed →
          t.status.ctxValid = false ∧ t.ck = (keyBuffer s.key).extractLsb' 256 256 ∧
            t.pad = (keyBuffer s.key).extractLsb' 0 256) ∧
        t.status.err ≠ .illegalCommand)) ∧
    ∀ (w : Word) (e : IllegalWord), decode w = .error e → ∃ t, writeCmd w s = .next t ∧
      t.status.err = .illegalCommand ∧ t.status.busy = false ∧ t.status.done = true ∧
        t.status.outValid = false ∧ t.status.outLen = 0 ∧ t.status.ctxValid = s.status.ctxValid ∧
        t.ck = s.ck ∧ t.pad = s.pad ∧ t.pp = s.pp ∧ t.ob = s.ob ∧ t.key = s.key ∧ t.ain = s.ain

/-- 70_reset_and_hazards.md R220, 43_dispatch.md R167, 40_key_setup.md R111: the number of engine steps after the
acceptance of a command: it depends on the command and its outcome class, on no key or address bit beyond them.
Unwritten words included (the model's, log 7). -/
def Obligations.EngineStepCounts : Prop :=
  ∀ (s : State) (i : Instr), s.status.busy = false →
    let m := mapped (inputBuffer s.ain)
    let ok := s.status.ctxValid
    let n : Nat := match i with
      | .keysetup len =>
        if len = 64 ∧ bcKeyOk s.params ((keyBuffer s.key).extractLsb' 256 256) = true then 1 else 0
      | .anonV4 len => if ok = true ∧ (len = 4 ∨ len = 16 ∧ m = true) then 32 else 0
      | .anonV6 len => if ok = true ∧ len = 16 then 128 else 0
      | .anon len =>
        if ok = true ∧ (len = 4 ∨ len = 16 ∧ m = true) then 32 else if ok = true ∧ len = 16 then 128 else 0
    ∃ t u, exec i s = .next t ∧ engineRun n t = .next u ∧ u.status.busy = false ∧
      ∀ k < n, ∃ v, engineRun k t = .next v ∧ v.status.busy = true

/-- 60_exceptions.md R181, R182: what the acceptance step of a command leaves unchanged. That a command completing in it
keeps the hidden registers it does not write, where the spec leaves their value open, is the model's choice (log 25). -/
def Obligations.CommandFrame : Prop :=
  ∀ (s t : State) (i : Instr), exec i s = .next t →
    t.key = s.key ∧ t.ain = s.ain ∧ t.ob = s.ob ∧ t.pp = s.pp ∧ t.oblk = s.oblk ∧ t.bit = s.bit ∧
      t.keyWritten = s.keyWritten ∧ t.ainWritten = s.ainWritten ∧ t.params = s.params ∧
      t.moves = s.moves ∧ t.rdata = s.rdata ∧
      (t.phase ≠ .runV4 → t.phase ≠ .runV6 → t.wr = s.wr ∧ t.blk = s.blk ∧ t.pos = s.pos) ∧
      ((∀ len, i ≠ .keysetup len) →
        t.ck = s.ck ∧ t.pad = s.pad ∧ t.status.ctxValid = s.status.ctxValid ∧ t.cur.keySnap = s.cur.keySnap) ∧
      ((∃ len, i = .keysetup len) → t.cur.inSnap = s.cur.inSnap ∧ t.cur.embed = s.cur.embed) ∧
      (s.status.busy = false → t.refused = s.refused)

/-! ### The host's accesses -/

/-- 70_reset_and_hazards.md R216: while busy, a write of `CMD`, `KEYi` or `AINi`, and so every command, changes nothing
but the `REFUSED` mark; the other writes are ignored, busy or not; reads are allowed at any time. -/
def Obligations.BusyWritesAreRefused : Prop :=
  ∀ (s : State) (rest : List Move) (v : Word),
    (s.status.busy = true →
      (∀ r : Reg, (r = .cmd ∨ (∃ i, r = .key i) ∨ ∃ i, r = .ain i) → s.moves = .write r v :: rest →
          step s = .next { s with moves := rest, refused := true }) ∧
        ∀ i : Instr, exec i s = .next { s with refused := true }) ∧
      (∀ r : Reg, (r = .status ∨ (∃ i, r = .aout i) ∨ ∃ i, r = .reserved i) → s.moves = .write r v :: rest →
        step s = .next { s with moves := rest }) ∧
      ∀ r : Reg, s.moves = .read r :: rest →
        ∃ t, step s = .next t ∧ t.refused = s.refused ∧ t.status = s.status ∧ t.phase = s.phase

/-- 20_memory.md R58: writes of `STATUS`, `AOUTi` and reserved offsets change no state, busy or not; reads of `CMD`,
`KEYi` and reserved offsets return 0 and change nothing else. -/
def Obligations.IgnoredAccesses : Prop :=
  ∀ (s : State) (r : Reg) (rest : List Move),
    (∀ v : Word, (r = .status ∨ (∃ i, r = .aout i) ∨ ∃ i, r = .reserved i) → s.moves = .write r v :: rest →
        step s = .next { s with moves := rest }) ∧
      ((r = .cmd ∨ (∃ i, r = .key i) ∨ ∃ i, r = .reserved i) → s.moves = .read r :: rest →
        step s = .next { s with moves := rest, rdata := 0 })

/-- 10_state.md R22, R24, R25, 20_memory.md R57: a read of `STATUS`, of `AINi`, and of `AOUTi` while `OUT_VALID = 1`
returns the register and has no side effect; a read of `AOUTi` while `OUT_VALID = 0` sets `FAULT`, and what it returns
is not mentioned. -/
def Obligations.HostReads : Prop :=
  ∀ (s : State) (rest : List Move),
    (s.moves = .read .status :: rest →
        step s = .next { s with moves := rest, rdata := statusWord s.status }) ∧
      (∀ i : Fin 4, s.moves = .read (.ain i) :: rest →
        step s = .next { s with moves := rest, rdata := s.ain[i] }) ∧
      (∀ i : Fin 4, s.moves = .read (.aout i) :: rest → s.status.outValid = true →
        step s = .next { s with moves := rest, rdata := s.ob.extractLsb' (96 - 32 * i.val) 32 }) ∧
      (∀ i : Fin 4, s.moves = .read (.aout i) :: rest → s.status.outValid = false →
        ∃ t, step s = .next t ∧ t.faulted = true ∧
          ∃ v n, t = { s with moves := rest, faulted := true, rdata := v, freeCount := n })

/-- 10_state.md R23, R24, 20_memory.md R57: a write of `KEYi` or `AINi` while idle stores the value and its written bit
and has no other effect. -/
def Obligations.OperandWrites : Prop :=
  ∀ (s : State) (rest : List Move) (v : Word), s.status.busy = false →
    (∀ i : Fin 16, s.moves = .write (.key i) v :: rest →
        ∃ t, step s = .next t ∧ t.key[i] = v ∧ t.keyWritten[i] = true ∧
          (∀ j : Fin 16, j ≠ i → t.key[j] = s.key[j] ∧ t.keyWritten[j] = s.keyWritten[j]) ∧
          t = { s with moves := rest, key := t.key, keyWritten := t.keyWritten }) ∧
      ∀ i : Fin 4, s.moves = .write (.ain i) v :: rest →
        ∃ t, step s = .next t ∧ t.ain[i] = v ∧ t.ainWritten[i] = true ∧
          (∀ j : Fin 4, j ≠ i → t.ain[j] = s.ain[j] ∧ t.ainWritten[j] = s.ainWritten[j]) ∧
          t = { s with moves := rest, ain := t.ain, ainWritten := t.ainWritten }

/-- 10_state.md R24: a host read of `AINi` right after a write of it returns the value written. -/
def Obligations.AddressReadsBack : Prop :=
  ∀ (s : State) (rest : List Move) (i j : Fin 4) (v : Word), s.status.busy = false →
    s.moves = .write (.ain i) v :: .read (.ain j) :: rest →
      ∃ t u, step s = .next t ∧ step t = .next u ∧ u.rdata = if j = i then v else s.ain[j]

/-- 60_exceptions.md R197, 10_state.md R23, R29 to R31: two states that agree on what the host may see, `STATUS`, `AIN`
and a valid `OB`, answer every host read alike, whatever their key buffers, contexts and datapaths hold. The premise on
the count of free values only says that both draw the same unspecified value (log 19). -/
def Obligations.HostCannotSeeSecrets : Prop :=
  ∀ (s₁ s₂ : State) (r : Reg) (rest₁ rest₂ : List Move),
    s₁.status = s₂.status → s₁.ain = s₂.ain → (s₁.status.outValid = true → s₁.ob = s₂.ob) →
    s₁.freeCount = s₂.freeCount → s₁.moves = .read r :: rest₁ → s₂.moves = .read r :: rest₂ →
      ∃ t₁ t₂, step s₁ = .next t₁ ∧ step s₂ = .next t₂ ∧ t₁.rdata = t₂.rdata

/-- 20_memory.md R67: the running command reads only its snapshots: with other operand registers the engine, however
many turns it has, does the same and leaves those registers as they are. -/
def Obligations.SnapshotsProtectTheCommand : Prop :=
  ∀ (n : Nat) (s t : State) (key : Vector Word 16) (ain : Vector Word 4) (kw : Vector Bool 16) (aw : Vector Bool 4),
    engineRun n s = .next t →
      engineRun n { s with key := key, ain := ain, keyWritten := kw, ainWritten := aw } =
        .next { t with key := key, ain := ain, keyWritten := kw, ainWritten := aw }

/-- 70_reset_and_hazards.md R218, 60_exceptions.md R181: every acceptance, of a legal or an illegal word, ends the
lifetime of the last result. -/
def Obligations.AcceptanceClearsResult : Prop :=
  ∀ (s : State) (w : Word) (rest : List Move), s.status.busy = false → s.moves = .write .cmd w :: rest →
    ∃ t, step s = .next t ∧ t.status.outValid = false ∧ t.status.outLen = 0 ∧ t.moves = rest

/-! ### The whole machine -/

/-- 10_state.md R40: the invariant holds at reset. -/
def Obligations.InvariantAtReset : Prop := State.reset.Inv

/-- 10_state.md R22, R25, R28, R30 to R32, 60_exceptions.md R182: every step keeps the invariant. -/
def Obligations.StepKeepsInvariant : Prop :=
  ∀ s t : State, s.Inv → step s = .next t → t.Inv

/-- 10_state.md R28, 60_exceptions.md R182: no state that meets the invariant stops. -/
def Obligations.NoStepStops : Prop :=
  ∀ s : State, s.Inv → ∃ t, step s = .next t

/-- 95_test_vectors.md section 2.6, from 10_state.md R22: the twelve values that a poll of `STATUS` can read. -/
def Obligations.StatusValues : Prop :=
  ∀ s : State, s.Inv →
    statusWord s.status ∈
      [0x00000000#32, 0x00000001#32, 0x00000006#32, 0x00000012#32, 0x00000022#32, 0x00000005#32,
       0x0000040E#32, 0x0000100E#32, 0x00000036#32, 0x00000042#32, 0x00000056#32, 0x00000052#32]

/-- 70_reset_and_hazards.md R222: from every state that meets the invariant, busy or not, at most 128 engine steps bring
`BUSY` back to 0. -/
def Obligations.EveryCommandCompletes : Prop :=
  ∀ s : State, s.Inv → ∃ n ≤ 128, ∃ u, engineRun n s = .next u ∧ u.status.busy = false

/-- 10_state.md R39, 60_exceptions.md R203: no step, a reset included, clears a mark. -/
def Obligations.MarksAreSticky : Prop :=
  ∀ s t : State, step s = .next t →
    (s.faulted = true → t.faulted = true) ∧ (s.refused = true → t.refused = true)

/-- 10_state.md R33: a step that is no reset, no acceptance of KEYSETUP and no engine turn of a running KEYSETUP leaves
the Engine Context as it is. Host accesses while KEYSETUP runs, and a KEYSETUP word refused while busy, are such
steps. -/
def Obligations.OnlyKeysetupChangesContext : Prop :=
  ∀ s t : State, step s = .next t →
    (∀ rest, s.moves ≠ .reset :: rest) →
    (∀ w rest len, s.moves = .write .cmd w :: rest → decode w = .ok (.keysetup len) → s.status.busy = true) →
    (s.moves = [] ∨ (∃ rest, s.moves = .engine :: rest) → s.status.busy = true → s.phase ≠ .runKey) →
      t.ck = s.ck ∧ t.pad = s.pad ∧ t.pp = s.pp ∧ t.status.ctxValid = s.status.ctxValid

/-- 10_state.md R25: but for a reset, `OB` changes only in the last engine step of a successful anonymize command, which
also sets `OUT_VALID`. That step is the one at position 31 or 127, and above 31 in states no run reaches (log 15). -/
def Obligations.OutputChangesOnlyAtCompletion : Prop :=
  ∀ s t : State, step s = .next t → (∀ rest, s.moves ≠ .reset :: rest) → t.ob ≠ s.ob →
    s.status.busy = true ∧ (s.phase = .runV4 ∧ 31 ≤ s.pos.toNat ∨ s.phase = .runV6 ∧ s.pos.toNat = 127) ∧
      t.status.outValid = true ∧ t.status.done = true ∧ t.status.busy = false

/-- 70_reset_and_hazards.md R225: a run ends right after its last host access, whatever follows it (the schedule is the
model's, log 1); it is final exactly when the machine is idle there with both marks clear, and only then has it an
observation, that of that state. -/
def Obligations.RunEndsAtLastAccess : Prop :=
  ∀ s : State,
    (∀ (before : List Move) (m : Move) (after : List Move), s.moves = before ++ m :: after →
      m.isAccess = true → (∀ x ∈ after, x.isAccess = false) →
        s.endOfRun = stepRun (before.length + 1) s ∧ ∀ t, s.endOfRun = .next t → t.moves = after) ∧
      ((∀ x ∈ s.moves, x.isAccess = false) → s.endOfRun = .next s) ∧
      ∀ t, s.endOfRun = .next t →
        (s.isFinal = true ↔ t.status.busy = false ∧ t.faulted = false ∧ t.refused = false) ∧
          s.finalObservation =
            if s.isFinal then
              some { status := statusWord t.status, aout := if t.status.outValid then some t.ob else none,
                     ctxValid := t.status.ctxValid }
            else none
end

