-- ==== Sys2Proof/Laws/Bits.lean ====
section
/-!
SUPPORT. Bit by bit: concatenation and sub-strings. Proofs about words compare bits with these and leave the arithmetic
on positions to omega.
-/

namespace Sys2Proof

/-- A bit of a concatenation is a bit of the lower part or of the upper one. -/
@[simp] theorem getLsbD_joinAs {n m : Nat} (k : Nat) (x : BitVec n) (y : BitVec m) (i : Nat) :
    (joinAs k x y).getLsbD i =
      (decide (i < k) && if i < m then y.getLsbD i else x.getLsbD (i - m)) := by
  rw [joinAs, BitVec.getLsbD_setWidth, BitVec.getLsbD_append]

/-- The same for a bit known to be in range. -/
@[simp] theorem getElem_joinAs {n m : Nat} (k : Nat) (x : BitVec n) (y : BitVec m) (i : Nat) (h : i < k) :
    (joinAs k x y)[i] = if i < m then y.getLsbD i else x.getLsbD (i - m) := by
  rw [← BitVec.getLsbD_eq_getElem, getLsbD_joinAs]
  simp [h]

/-- A bit of a sub-string is a bit of the string. -/
@[simp] theorem Machine.getLsbD_substr {n : Nat} (w : Nat) (s : BitVec n) (a i : Nat) :
    (Machine.substr w s a).getLsbD i = (decide (i < w) && s.getLsbD (n - 8 * a - w + i)) := by
  rw [Machine.substr, BitVec.getLsbD_extractLsb']

/-- The same for a bit known to be in range. -/
@[simp] theorem Machine.getElem_substr {n : Nat} (w : Nat) (s : BitVec n) (a i : Nat) (h : i < w) :
    (Machine.substr w s a)[i] = s.getLsbD (n - 8 * a - w + i) := by
  rw [← BitVec.getLsbD_eq_getElem, Machine.getLsbD_substr]
  simp [h]

/-- A sub-string inside the upper part of a concatenation. -/
theorem Machine.substr_joinAs_left {n m k w a : Nat} (hk : n + m = k) (h : 8 * a + w ≤ n)
    (x : BitVec n) (y : BitVec m) : Machine.substr w (joinAs k x y) a = Machine.substr w x a := by
  apply BitVec.eq_of_getLsbD_eq
  intro i hi
  have h1 : k - 8 * a - w + i < k := by omega
  have h2 : ¬ k - 8 * a - w + i < m := by omega
  have h3 : k - 8 * a - w + i - m = n - 8 * a - w + i := by omega
  simp [hi, h1, h2, h3]

/-- A sub-string inside the lower part of a concatenation whose upper part has `b` bytes. -/
theorem Machine.substr_joinAs_right {n m k w a b : Nat} (hk : n + m = k) (hb : 8 * b = n) (hab : b ≤ a)
    (h : 8 * a + w ≤ k) (x : BitVec n) (y : BitVec m) :
    Machine.substr w (joinAs k x y) a = Machine.substr w y (a - b) := by
  apply BitVec.eq_of_getLsbD_eq
  intro i hi
  have h1 : k - 8 * a - w + i < k := by omega
  have h2 : k - 8 * a - w + i < m := by omega
  have h3 : k - 8 * a - w + i = m - 8 * (a - b) - w + i := by omega
  simp [hi, h1, h2, ← h3]

/-- The whole string. -/
@[simp] theorem Machine.substr_full {n : Nat} (s : BitVec n) : Machine.substr n s 0 = s := by
  apply BitVec.eq_of_getLsbD_eq
  intro i hi
  simp [hi]

/-- Byte `j` of register `i` is byte `4i + j` of the string (20_memory.md R53). -/
theorem Machine.substr_wordAt {n : Nat} (s : BitVec n) (i j : Nat) (hj : j < 4) (hn : 32 * (i + 1) ≤ n) :
    (Machine.wordAt s i).extractLsb' (24 - 8 * j) 8 = Machine.substr 8 s (4 * i + j) := by
  apply BitVec.eq_of_getLsbD_eq
  intro l hl
  have h1 : 24 - 8 * j + l < 32 := by omega
  have h2 : n - 8 * (4 * i) - 32 + (24 - 8 * j + l) = n - 8 * (4 * i + j) - 8 + l := by omega
  simp [Machine.wordAt, hl, h1, h2]

/-- The four registers of a 16-byte buffer (20_memory.md R53). -/
theorem Machine.wordAt_joinWords (a b c d : Word) :
    Machine.wordAt (Machine.joinWords a b c d) 0 = a ∧ Machine.wordAt (Machine.joinWords a b c d) 1 = b ∧
      Machine.wordAt (Machine.joinWords a b c d) 2 = c ∧ Machine.wordAt (Machine.joinWords a b c d) 3 = d := by
  unfold Machine.wordAt Machine.joinWords
  refine ⟨?_, ?_, ?_, ?_⟩
  · rw [Machine.substr_joinAs_left rfl (by decide), Machine.substr_joinAs_left rfl (by decide), Machine.substr_full]
  · rw [Machine.substr_joinAs_left rfl (by decide),
      Machine.substr_joinAs_right (b := 4) rfl rfl (by decide) (by decide), Machine.substr_full]
  · rw [Machine.substr_joinAs_right (b := 8) rfl rfl (by decide) (by decide),
      Machine.substr_joinAs_left rfl (by decide), Machine.substr_full]
  · rw [Machine.substr_joinAs_right (b := 8) rfl rfl (by decide) (by decide),
      Machine.substr_joinAs_right (b := 4) rfl rfl (by decide) (by decide), Machine.substr_full]

/-- `AINi` is register `i` of `IB` (10_state.md R24). -/
theorem Machine.wordAt_inputBuffer (a : Vector Word 4) (i : Fin 4) :
    Machine.wordAt (Machine.inputBuffer a) i.val = a[i] := by
  obtain ⟨h0, h1, h2, h3⟩ := Machine.wordAt_joinWords a[0] a[1] a[2] a[3]
  fin_cases i
  exacts [h0, h1, h2, h3]

/-- A register of two 16-byte halves (20_memory.md R53). -/
theorem Machine.wordAt_joinAs {n m k : Nat} (hk : n + m = k) (x : BitVec n) (y : BitVec m) (i b : Nat)
    (hb : 32 * b = n) (h : 32 * (i + 1) ≤ k) :
    Machine.wordAt (joinAs k x y) i = if i < b then Machine.wordAt x i else Machine.wordAt y (i - b) := by
  unfold Machine.wordAt
  split
  · rw [Machine.substr_joinAs_left hk (by omega)]
  · rw [Machine.substr_joinAs_right (b := 4 * b) hk (by omega) (by omega) (by omega), Nat.mul_sub]

/-- `KEYi` is register `i` of `KB` (10_state.md R23). -/
theorem Machine.wordAt_keyBuffer (k : Vector Word 16) (i : Fin 16) :
    Machine.wordAt (Machine.keyBuffer k) i.val = k[i] := by
  obtain ⟨a0, a1, a2, a3⟩ := Machine.wordAt_joinWords k[0] k[1] k[2] k[3]
  obtain ⟨b0, b1, b2, b3⟩ := Machine.wordAt_joinWords k[4] k[5] k[6] k[7]
  obtain ⟨c0, c1, c2, c3⟩ := Machine.wordAt_joinWords k[8] k[9] k[10] k[11]
  obtain ⟨d0, d1, d2, d3⟩ := Machine.wordAt_joinWords k[12] k[13] k[14] k[15]
  have hi := i.isLt
  unfold Machine.keyBuffer
  rw [Machine.wordAt_joinAs rfl _ _ _ 8 rfl (by omega)]
  split
  · rw [Machine.wordAt_joinAs rfl _ _ _ 4 rfl (by omega)]
    fin_cases i <;> simp_all
  · rw [Machine.wordAt_joinAs rfl _ _ _ 4 rfl (by omega)]
    fin_cases i <;> simp_all

/-- The value of a concatenation of the two widths' sum. -/
theorem toNat_joinAs {n m k : Nat} (h : n + m = k) (x : BitVec n) (y : BitVec m) :
    (joinAs k x y).toNat = x.toNat * 2 ^ m + y.toNat := by
  subst h
  rw [joinAs, BitVec.setWidth_eq, BitVec.toNat_append, Nat.shiftLeft_eq, Nat.mul_comm,
    Nat.two_pow_add_eq_or_of_lt y.isLt]

end Sys2Proof
end

