-- ==== Sys2Proof/Laws/State.lean ====
section
/-!
SUPPORT. What each named operation writes and what it keeps, field by field. Each theorem is a conjunction that simp
takes apart into one rule per field, so no later proof unfolds a record update. A field that receives a free value has
no rule.
-/

namespace Sys2Proof.Machine

variable (s : State)

@[simp] theorem State.beginCommand_writes :
    s.beginCommand.status = { s.status with busy := true, done := false, err := .none, outValid := false, outLen := 0 } :=
  rfl

@[simp] theorem State.beginCommand_keeps :
    s.beginCommand.key = s.key ∧ s.beginCommand.ain = s.ain ∧ s.beginCommand.ob = s.ob ∧
    s.beginCommand.phase = s.phase ∧ s.beginCommand.pos = s.pos ∧ s.beginCommand.cur = s.cur ∧
    s.beginCommand.ck = s.ck ∧ s.beginCommand.pad = s.pad ∧ s.beginCommand.pp = s.pp ∧ s.beginCommand.wr = s.wr ∧
    s.beginCommand.blk = s.blk ∧ s.beginCommand.oblk = s.oblk ∧ s.beginCommand.bit = s.bit ∧
    s.beginCommand.keyWritten = s.keyWritten ∧ s.beginCommand.ainWritten = s.ainWritten ∧
    s.beginCommand.faulted = s.faulted ∧ s.beginCommand.refused = s.refused ∧ s.beginCommand.params = s.params ∧
    s.beginCommand.moves = s.moves ∧ s.beginCommand.rdata = s.rdata ∧ s.beginCommand.freeCount = s.freeCount :=
  ⟨rfl, rfl, rfl, rfl, rfl, rfl, rfl, rfl, rfl, rfl, rfl, rfl, rfl, rfl, rfl, rfl, rfl, rfl, rfl, rfl, rfl⟩

@[simp] theorem State.raiseError_writes (c : ErrCode) :
    (s.raiseError c).status = { s.status with err := c, busy := false, done := true } ∧
    (s.raiseError c).phase = .idle :=
  ⟨rfl, rfl⟩

@[simp] theorem State.raiseError_keeps (c : ErrCode) :
    (s.raiseError c).key = s.key ∧ (s.raiseError c).ain = s.ain ∧ (s.raiseError c).ob = s.ob ∧
    (s.raiseError c).pos = s.pos ∧ (s.raiseError c).cur = s.cur ∧ (s.raiseError c).ck = s.ck ∧
    (s.raiseError c).pad = s.pad ∧ (s.raiseError c).pp = s.pp ∧ (s.raiseError c).wr = s.wr ∧
    (s.raiseError c).blk = s.blk ∧ (s.raiseError c).oblk = s.oblk ∧ (s.raiseError c).bit = s.bit ∧
    (s.raiseError c).keyWritten = s.keyWritten ∧ (s.raiseError c).ainWritten = s.ainWritten ∧
    (s.raiseError c).faulted = s.faulted ∧ (s.raiseError c).refused = s.refused ∧
    (s.raiseError c).params = s.params ∧ (s.raiseError c).moves = s.moves ∧ (s.raiseError c).rdata = s.rdata ∧
    (s.raiseError c).freeCount = s.freeCount :=
  ⟨rfl, rfl, rfl, rfl, rfl, rfl, rfl, rfl, rfl, rfl, rfl, rfl, rfl, rfl, rfl, rfl, rfl, rfl, rfl, rfl⟩

@[simp] theorem State.complete_writes :
    s.complete.status = { s.status with busy := false, done := true } ∧ s.complete.phase = .idle :=
  ⟨rfl, rfl⟩

@[simp] theorem State.complete_keeps :
    s.complete.key = s.key ∧ s.complete.ain = s.ain ∧ s.complete.ob = s.ob ∧ s.complete.pos = s.pos ∧
    s.complete.cur = s.cur ∧ s.complete.ck = s.ck ∧ s.complete.pad = s.pad ∧ s.complete.pp = s.pp ∧
    s.complete.wr = s.wr ∧ s.complete.blk = s.blk ∧ s.complete.oblk = s.oblk ∧ s.complete.bit = s.bit ∧
    s.complete.keyWritten = s.keyWritten ∧ s.complete.ainWritten = s.ainWritten ∧ s.complete.faulted = s.faulted ∧
    s.complete.refused = s.refused ∧ s.complete.params = s.params ∧ s.complete.moves = s.moves ∧
    s.complete.rdata = s.rdata ∧ s.complete.freeCount = s.freeCount :=
  ⟨rfl, rfl, rfl, rfl, rfl, rfl, rfl, rfl, rfl, rfl, rfl, rfl, rfl, rfl, rfl, rfl, rfl, rfl, rfl, rfl⟩

@[simp] theorem State.refuse_writes :
    s.refuse.refused = true :=
  rfl

@[simp] theorem State.refuse_keeps :
    s.refuse.status = s.status ∧ s.refuse.key = s.key ∧ s.refuse.ain = s.ain ∧ s.refuse.ob = s.ob ∧
    s.refuse.phase = s.phase ∧ s.refuse.pos = s.pos ∧ s.refuse.cur = s.cur ∧ s.refuse.ck = s.ck ∧
    s.refuse.pad = s.pad ∧ s.refuse.pp = s.pp ∧ s.refuse.wr = s.wr ∧ s.refuse.blk = s.blk ∧ s.refuse.oblk = s.oblk ∧
    s.refuse.bit = s.bit ∧ s.refuse.keyWritten = s.keyWritten ∧ s.refuse.ainWritten = s.ainWritten ∧
    s.refuse.faulted = s.faulted ∧ s.refuse.params = s.params ∧ s.refuse.moves = s.moves ∧ s.refuse.rdata = s.rdata ∧
    s.refuse.freeCount = s.freeCount :=
  ⟨rfl, rfl, rfl, rfl, rfl, rfl, rfl, rfl, rfl, rfl, rfl, rfl, rfl, rfl, rfl, rfl, rfl, rfl, rfl, rfl, rfl⟩

@[simp] theorem State.markFault_writes (b : Bool) :
    (s.markFault b).faulted = (s.faulted || b) :=
  rfl

@[simp] theorem State.markFault_keeps (b : Bool) :
    (s.markFault b).status = s.status ∧ (s.markFault b).key = s.key ∧ (s.markFault b).ain = s.ain ∧
    (s.markFault b).ob = s.ob ∧ (s.markFault b).phase = s.phase ∧ (s.markFault b).pos = s.pos ∧
    (s.markFault b).cur = s.cur ∧ (s.markFault b).ck = s.ck ∧ (s.markFault b).pad = s.pad ∧
    (s.markFault b).pp = s.pp ∧ (s.markFault b).wr = s.wr ∧ (s.markFault b).blk = s.blk ∧
    (s.markFault b).oblk = s.oblk ∧ (s.markFault b).bit = s.bit ∧ (s.markFault b).keyWritten = s.keyWritten ∧
    (s.markFault b).ainWritten = s.ainWritten ∧ (s.markFault b).refused = s.refused ∧
    (s.markFault b).params = s.params ∧ (s.markFault b).moves = s.moves ∧ (s.markFault b).rdata = s.rdata ∧
    (s.markFault b).freeCount = s.freeCount :=
  ⟨rfl, rfl, rfl, rfl, rfl, rfl, rfl, rfl, rfl, rfl, rfl, rfl, rfl, rfl, rfl, rfl, rfl, rfl, rfl, rfl, rfl⟩

@[simp] theorem State.acceptKey_writes (op : BitVec 4) (len : Nat) :
    (s.acceptKey op len).status = { busy := true, done := false, ctxValid := false, outValid := false, err := .none, outLen := 0 } ∧
    (s.acceptKey op len).phase = .runKey ∧
    (s.acceptKey op len).cur = { s.cur with op := op, len := BitVec.ofNat 8 len, keySnap := keyBuffer s.key } :=
  ⟨rfl, rfl, rfl⟩

@[simp] theorem State.acceptKey_keeps (op : BitVec 4) (len : Nat) :
    (s.acceptKey op len).key = s.key ∧ (s.acceptKey op len).ain = s.ain ∧ (s.acceptKey op len).ob = s.ob ∧
    (s.acceptKey op len).pos = s.pos ∧ (s.acceptKey op len).ck = s.ck ∧ (s.acceptKey op len).pad = s.pad ∧
    (s.acceptKey op len).pp = s.pp ∧ (s.acceptKey op len).wr = s.wr ∧ (s.acceptKey op len).blk = s.blk ∧
    (s.acceptKey op len).oblk = s.oblk ∧ (s.acceptKey op len).bit = s.bit ∧
    (s.acceptKey op len).keyWritten = s.keyWritten ∧ (s.acceptKey op len).ainWritten = s.ainWritten ∧
    (s.acceptKey op len).faulted = s.faulted ∧ (s.acceptKey op len).refused = s.refused ∧
    (s.acceptKey op len).params = s.params ∧ (s.acceptKey op len).moves = s.moves ∧
    (s.acceptKey op len).rdata = s.rdata ∧ (s.acceptKey op len).freeCount = s.freeCount :=
  ⟨rfl, rfl, rfl, rfl, rfl, rfl, rfl, rfl, rfl, rfl, rfl, rfl, rfl, rfl, rfl, rfl, rfl, rfl, rfl⟩

@[simp] theorem State.acceptAddress_writes (op : BitVec 4) (len : Nat) :
    (s.acceptAddress op len).status = { s.status with busy := true, done := false, err := .none, outValid := false, outLen := 0 } ∧
    (s.acceptAddress op len).cur = { s.cur with op := op, len := BitVec.ofNat 8 len, inSnap := inputBuffer s.ain } :=
  ⟨rfl, rfl⟩

@[simp] theorem State.acceptAddress_keeps (op : BitVec 4) (len : Nat) :
    (s.acceptAddress op len).key = s.key ∧ (s.acceptAddress op len).ain = s.ain ∧
    (s.acceptAddress op len).ob = s.ob ∧ (s.acceptAddress op len).phase = s.phase ∧
    (s.acceptAddress op len).pos = s.pos ∧ (s.acceptAddress op len).ck = s.ck ∧
    (s.acceptAddress op len).pad = s.pad ∧ (s.acceptAddress op len).pp = s.pp ∧ (s.acceptAddress op len).wr = s.wr ∧
    (s.acceptAddress op len).blk = s.blk ∧ (s.acceptAddress op len).oblk = s.oblk ∧
    (s.acceptAddress op len).bit = s.bit ∧ (s.acceptAddress op len).keyWritten = s.keyWritten ∧
    (s.acceptAddress op len).ainWritten = s.ainWritten ∧ (s.acceptAddress op len).faulted = s.faulted ∧
    (s.acceptAddress op len).refused = s.refused ∧ (s.acceptAddress op len).params = s.params ∧
    (s.acceptAddress op len).moves = s.moves ∧ (s.acceptAddress op len).rdata = s.rdata ∧
    (s.acceptAddress op len).freeCount = s.freeCount :=
  ⟨rfl, rfl, rfl, rfl, rfl, rfl, rfl, rfl, rfl, rfl, rfl, rfl, rfl, rfl, rfl, rfl, rfl, rfl, rfl, rfl⟩

@[simp] theorem State.splitKey_writes :
    s.splitKey.ck = substr 256 s.cur.keySnap 0 ∧ s.splitKey.pad = substr 256 s.cur.keySnap 32 :=
  ⟨rfl, rfl⟩

@[simp] theorem State.splitKey_keeps :
    s.splitKey.status = s.status ∧ s.splitKey.key = s.key ∧ s.splitKey.ain = s.ain ∧ s.splitKey.ob = s.ob ∧
    s.splitKey.phase = s.phase ∧ s.splitKey.pos = s.pos ∧ s.splitKey.cur = s.cur ∧ s.splitKey.pp = s.pp ∧
    s.splitKey.wr = s.wr ∧ s.splitKey.blk = s.blk ∧ s.splitKey.oblk = s.oblk ∧ s.splitKey.bit = s.bit ∧
    s.splitKey.keyWritten = s.keyWritten ∧ s.splitKey.ainWritten = s.ainWritten ∧ s.splitKey.faulted = s.faulted ∧
    s.splitKey.refused = s.refused ∧ s.splitKey.params = s.params ∧ s.splitKey.moves = s.moves ∧
    s.splitKey.rdata = s.rdata ∧ s.splitKey.freeCount = s.freeCount :=
  ⟨rfl, rfl, rfl, rfl, rfl, rfl, rfl, rfl, rfl, rfl, rfl, rfl, rfl, rfl, rfl, rfl, rfl, rfl, rfl, rfl⟩

@[simp] theorem State.keyStep_writes :
    s.keyStep.status = { s.status with ctxValid := true, busy := false, done := true } ∧ s.keyStep.phase = .idle ∧
    s.keyStep.pad = s.derivedPad ∧ s.keyStep.pp = substr 32 s.derivedPad 0 :=
  ⟨rfl, rfl, rfl, rfl⟩

@[simp] theorem State.keyStep_keeps :
    s.keyStep.key = s.key ∧ s.keyStep.ain = s.ain ∧ s.keyStep.ob = s.ob ∧ s.keyStep.pos = s.pos ∧
    s.keyStep.cur = s.cur ∧ s.keyStep.ck = s.ck ∧ s.keyStep.wr = s.wr ∧ s.keyStep.blk = s.blk ∧
    s.keyStep.oblk = s.oblk ∧ s.keyStep.bit = s.bit ∧ s.keyStep.keyWritten = s.keyWritten ∧
    s.keyStep.ainWritten = s.ainWritten ∧ s.keyStep.faulted = s.faulted ∧ s.keyStep.refused = s.refused ∧
    s.keyStep.params = s.params ∧ s.keyStep.moves = s.moves ∧ s.keyStep.rdata = s.rdata ∧
    s.keyStep.freeCount = s.freeCount :=
  ⟨rfl, rfl, rfl, rfl, rfl, rfl, rfl, rfl, rfl, rfl, rfl, rfl, rfl, rfl, rfl, rfl, rfl, rfl⟩

@[simp] theorem State.startV4_writes (w : Word) (e : Bool) :
    (s.startV4 w e).phase = .runV4 ∧ (s.startV4 w e).pos = 0 ∧ (s.startV4 w e).cur = { s.cur with embed := e } ∧
    (s.startV4 w e).wr = w.setWidth 128 ∧ (s.startV4 w e).blk = v4Block s.pp w 0 :=
  ⟨rfl, rfl, rfl, rfl, rfl⟩

@[simp] theorem State.startV4_keeps (w : Word) (e : Bool) :
    (s.startV4 w e).status = s.status ∧ (s.startV4 w e).key = s.key ∧ (s.startV4 w e).ain = s.ain ∧
    (s.startV4 w e).ob = s.ob ∧ (s.startV4 w e).ck = s.ck ∧ (s.startV4 w e).pad = s.pad ∧ (s.startV4 w e).pp = s.pp ∧
    (s.startV4 w e).oblk = s.oblk ∧ (s.startV4 w e).bit = s.bit ∧ (s.startV4 w e).keyWritten = s.keyWritten ∧
    (s.startV4 w e).ainWritten = s.ainWritten ∧ (s.startV4 w e).faulted = s.faulted ∧
    (s.startV4 w e).refused = s.refused ∧ (s.startV4 w e).params = s.params ∧ (s.startV4 w e).moves = s.moves ∧
    (s.startV4 w e).rdata = s.rdata ∧ (s.startV4 w e).freeCount = s.freeCount :=
  ⟨rfl, rfl, rfl, rfl, rfl, rfl, rfl, rfl, rfl, rfl, rfl, rfl, rfl, rfl, rfl, rfl, rfl⟩

@[simp] theorem State.startV6_writes :
    s.startV6.phase = .runV6 ∧ s.startV6.pos = 0 ∧ s.startV6.wr = s.cur.inSnap ∧
    s.startV6.blk = v6Block s.pp s.cur.inSnap 0 :=
  ⟨rfl, rfl, rfl, rfl⟩

@[simp] theorem State.startV6_keeps :
    s.startV6.status = s.status ∧ s.startV6.key = s.key ∧ s.startV6.ain = s.ain ∧ s.startV6.ob = s.ob ∧
    s.startV6.cur = s.cur ∧ s.startV6.ck = s.ck ∧ s.startV6.pad = s.pad ∧ s.startV6.pp = s.pp ∧
    s.startV6.oblk = s.oblk ∧ s.startV6.bit = s.bit ∧ s.startV6.keyWritten = s.keyWritten ∧
    s.startV6.ainWritten = s.ainWritten ∧ s.startV6.faulted = s.faulted ∧ s.startV6.refused = s.refused ∧
    s.startV6.params = s.params ∧ s.startV6.moves = s.moves ∧ s.startV6.rdata = s.rdata ∧
    s.startV6.freeCount = s.freeCount :=
  ⟨rfl, rfl, rfl, rfl, rfl, rfl, rfl, rfl, rfl, rfl, rfl, rfl, rfl, rfl, rfl, rfl, rfl, rfl⟩

@[simp] theorem State.iterateV4_writes :
    s.iterateV4.wr = withLow32 s.wr (mergeBit (low32 s.wr) (topBit (s.oracle s.blk)) s.pos.toNat) ∧
    s.iterateV4.oblk = s.oracle s.blk ∧ s.iterateV4.bit = topBit (s.oracle s.blk) :=
  ⟨rfl, rfl, rfl⟩

@[simp] theorem State.iterateV4_keeps :
    s.iterateV4.status = s.status ∧ s.iterateV4.key = s.key ∧ s.iterateV4.ain = s.ain ∧ s.iterateV4.ob = s.ob ∧
    s.iterateV4.phase = s.phase ∧ s.iterateV4.pos = s.pos ∧ s.iterateV4.cur = s.cur ∧ s.iterateV4.ck = s.ck ∧
    s.iterateV4.pad = s.pad ∧ s.iterateV4.pp = s.pp ∧ s.iterateV4.blk = s.blk ∧
    s.iterateV4.keyWritten = s.keyWritten ∧ s.iterateV4.ainWritten = s.ainWritten ∧ s.iterateV4.faulted = s.faulted ∧
    s.iterateV4.refused = s.refused ∧ s.iterateV4.params = s.params ∧ s.iterateV4.moves = s.moves ∧
    s.iterateV4.rdata = s.rdata ∧ s.iterateV4.freeCount = s.freeCount :=
  ⟨rfl, rfl, rfl, rfl, rfl, rfl, rfl, rfl, rfl, rfl, rfl, rfl, rfl, rfl, rfl, rfl, rfl, rfl, rfl⟩

@[simp] theorem State.iterateV6_writes :
    s.iterateV6.wr = mergeBit s.wr (topBit (s.oracle s.blk)) s.pos.toNat ∧ s.iterateV6.oblk = s.oracle s.blk ∧
    s.iterateV6.bit = topBit (s.oracle s.blk) :=
  ⟨rfl, rfl, rfl⟩

@[simp] theorem State.iterateV6_keeps :
    s.iterateV6.status = s.status ∧ s.iterateV6.key = s.key ∧ s.iterateV6.ain = s.ain ∧ s.iterateV6.ob = s.ob ∧
    s.iterateV6.phase = s.phase ∧ s.iterateV6.pos = s.pos ∧ s.iterateV6.cur = s.cur ∧ s.iterateV6.ck = s.ck ∧
    s.iterateV6.pad = s.pad ∧ s.iterateV6.pp = s.pp ∧ s.iterateV6.blk = s.blk ∧
    s.iterateV6.keyWritten = s.keyWritten ∧ s.iterateV6.ainWritten = s.ainWritten ∧ s.iterateV6.faulted = s.faulted ∧
    s.iterateV6.refused = s.refused ∧ s.iterateV6.params = s.params ∧ s.iterateV6.moves = s.moves ∧
    s.iterateV6.rdata = s.rdata ∧ s.iterateV6.freeCount = s.freeCount :=
  ⟨rfl, rfl, rfl, rfl, rfl, rfl, rfl, rfl, rfl, rfl, rfl, rfl, rfl, rfl, rfl, rfl, rfl, rfl, rfl⟩

@[simp] theorem State.releaseDatapath_writes :
    s.releaseDatapath.freeCount = s.freeCount + 5 :=
  rfl

@[simp] theorem State.releaseDatapath_keeps :
    s.releaseDatapath.status = s.status ∧ s.releaseDatapath.key = s.key ∧ s.releaseDatapath.ain = s.ain ∧
    s.releaseDatapath.ob = s.ob ∧ s.releaseDatapath.phase = s.phase ∧ s.releaseDatapath.cur = s.cur ∧
    s.releaseDatapath.ck = s.ck ∧ s.releaseDatapath.pad = s.pad ∧ s.releaseDatapath.pp = s.pp ∧
    s.releaseDatapath.keyWritten = s.keyWritten ∧ s.releaseDatapath.ainWritten = s.ainWritten ∧
    s.releaseDatapath.faulted = s.faulted ∧ s.releaseDatapath.refused = s.refused ∧
    s.releaseDatapath.params = s.params ∧ s.releaseDatapath.moves = s.moves ∧ s.releaseDatapath.rdata = s.rdata :=
  ⟨rfl, rfl, rfl, rfl, rfl, rfl, rfl, rfl, rfl, rfl, rfl, rfl, rfl, rfl, rfl, rfl⟩

@[simp] theorem State.deliver_writes (ob : Block) (len : BitVec 8) :
    (s.deliver ob len).status = { s.status with outValid := true, outLen := len, busy := false, done := true } ∧
    (s.deliver ob len).ob = ob ∧ (s.deliver ob len).phase = .idle ∧ (s.deliver ob len).freeCount = s.freeCount + 5 :=
  ⟨rfl, rfl, rfl, rfl⟩

@[simp] theorem State.deliver_keeps (ob : Block) (len : BitVec 8) :
    (s.deliver ob len).key = s.key ∧ (s.deliver ob len).ain = s.ain ∧ (s.deliver ob len).cur = s.cur ∧
    (s.deliver ob len).ck = s.ck ∧ (s.deliver ob len).pad = s.pad ∧ (s.deliver ob len).pp = s.pp ∧
    (s.deliver ob len).keyWritten = s.keyWritten ∧ (s.deliver ob len).ainWritten = s.ainWritten ∧
    (s.deliver ob len).faulted = s.faulted ∧ (s.deliver ob len).refused = s.refused ∧
    (s.deliver ob len).params = s.params ∧ (s.deliver ob len).moves = s.moves ∧ (s.deliver ob len).rdata = s.rdata :=
  ⟨rfl, rfl, rfl, rfl, rfl, rfl, rfl, rfl, rfl, rfl, rfl, rfl, rfl⟩

@[simp] theorem State.busRead_writes (r : Reg) :
    (s.busRead r).faulted = (s.faulted || s.unreadable r) ∧ (s.busRead r).rdata = s.readValue r :=
  ⟨rfl, rfl⟩

@[simp] theorem State.busRead_keeps (r : Reg) :
    (s.busRead r).status = s.status ∧ (s.busRead r).key = s.key ∧ (s.busRead r).ain = s.ain ∧
    (s.busRead r).ob = s.ob ∧ (s.busRead r).phase = s.phase ∧ (s.busRead r).pos = s.pos ∧ (s.busRead r).cur = s.cur ∧
    (s.busRead r).ck = s.ck ∧ (s.busRead r).pad = s.pad ∧ (s.busRead r).pp = s.pp ∧ (s.busRead r).wr = s.wr ∧
    (s.busRead r).blk = s.blk ∧ (s.busRead r).oblk = s.oblk ∧ (s.busRead r).bit = s.bit ∧
    (s.busRead r).keyWritten = s.keyWritten ∧ (s.busRead r).ainWritten = s.ainWritten ∧
    (s.busRead r).refused = s.refused ∧ (s.busRead r).params = s.params ∧ (s.busRead r).moves = s.moves :=
  ⟨rfl, rfl, rfl, rfl, rfl, rfl, rfl, rfl, rfl, rfl, rfl, rfl, rfl, rfl, rfl, rfl, rfl, rfl, rfl⟩

@[simp] theorem State.applyReset_writes :
    s.applyReset.status = Status.reset ∧ s.applyReset.phase = .idle ∧
    s.applyReset.keyWritten = Vector.replicate 16 false ∧ s.applyReset.ainWritten = Vector.replicate 4 false ∧
    s.applyReset.freeCount = s.freeCount + 34 :=
  ⟨rfl, rfl, rfl, rfl, rfl⟩

@[simp] theorem State.applyReset_keeps :
    s.applyReset.faulted = s.faulted ∧ s.applyReset.refused = s.refused ∧ s.applyReset.params = s.params ∧
    s.applyReset.moves = s.moves ∧ s.applyReset.rdata = s.rdata :=
  ⟨rfl, rfl, rfl, rfl, rfl⟩

end Sys2Proof.Machine
end

