-- ==== Sys2Proof/Laws/Ops.lean ====
section
/-!
SUPPORT. One lemma per shared operation that says everything it can do, so that later proofs cite it and do not unfold
the operation; and the pure functions' small lemmas.
-/

namespace Sys2Proof.Machine

/-! ### Conditional operations -/

/-- An illegal word is refused while busy, else it begins and ends with its code. -/
theorem State.acceptIllegal_cases (s : State) :
    s.status.busy = true ∧ s.acceptIllegal = s.refuse ∨
      s.status.busy = false ∧ s.acceptIllegal = s.beginCommand.raiseError .illegalCommand := by
  unfold State.acceptIllegal
  cases s.status.busy <;> simp

/-- A key write is refused while busy, else it stores the word and its written bit. -/
theorem State.writeKey_cases (s : State) (i : Fin 16) (v : Word) :
    s.status.busy = true ∧ s.writeKey i v = s.refuse ∨
      s.status.busy = false ∧
        s.writeKey i v = { s with key := s.key.set i v, keyWritten := s.keyWritten.set i true } := by
  unfold State.writeKey
  cases s.status.busy <;> simp

/-- An address write is refused while busy, else it stores the word and its written bit. -/
theorem State.writeAin_cases (s : State) (i : Fin 4) (v : Word) :
    s.status.busy = true ∧ s.writeAin i v = s.refuse ∨
      s.status.busy = false ∧
        s.writeAin i v = { s with ain := s.ain.set i v, ainWritten := s.ainWritten.set i true } := by
  unfold State.writeAin
  cases s.status.busy <;> simp

/-- The context check runs the body or raises `NO_CONTEXT`. -/
theorem State.withContext_cases (s : State) (body : State → State) :
    s.status.ctxValid = true ∧ s.withContext body = body s ∨
      s.status.ctxValid = false ∧ s.withContext body = s.raiseError .noContext := by
  unfold State.withContext
  cases s.status.ctxValid <;> simp

/-- KEYSETUP's body: a wrong length, a rejected key, or the split key waiting for its oracle call. -/
theorem State.beginKey_cases (s : State) (len : Nat) :
    len ≠ 64 ∧ s.beginKey len = s.raiseError .invalidKeyLength ∨
      len = 64 ∧ bcKeyOk s.params (substr 256 s.cur.keySnap 0) = false ∧
        s.beginKey len = ((s.markFault s.keyUnwritten).splitKey).raiseError .keyDerivationFailed ∨
      len = 64 ∧ bcKeyOk s.params (substr 256 s.cur.keySnap 0) = true ∧
        s.beginKey len = (s.markFault s.keyUnwritten).splitKey := by
  unfold State.beginKey
  by_cases h : len = 64
  · cases hk : bcKeyOk s.params (substr 256 s.cur.keySnap 0) <;> simp [h, hk]
  · simp [h]

/-- ANON_V4's body: the loop starts on the operand, or `INVALID_ADDRESS`. -/
theorem State.beginV4_cases (s : State) (len : Nat) :
    (∃ w e, v4Operand len s.cur.inSnap = some (w, e) ∧
        s.beginV4 len = (s.markFault (s.addressUnwritten len)).startV4 w e) ∨
      v4Operand len s.cur.inSnap = none ∧
        s.beginV4 len = (s.markFault (s.addressUnwritten len)).raiseError .invalidAddress := by
  unfold State.beginV4
  cases h : v4Operand len s.cur.inSnap with
  | none => simp [h]
  | some we => exact .inl ⟨we.1, we.2, rfl, by simp [h]⟩

/-- ANON_V6's body: the loop starts on the 16 bytes, or `INVALID_ADDRESS`. -/
theorem State.beginV6_cases (s : State) (len : Nat) :
    len = 16 ∧ s.beginV6 len = (s.markFault (s.addressUnwritten 16)).startV6 ∨
      len ≠ 16 ∧ s.beginV6 len = s.raiseError .invalidAddress := by
  unfold State.beginV6
  by_cases h : len = 16 <;> simp [h]

/-- Marking twice is marking for either reason. -/
@[simp] theorem State.markFault_markFault (s : State) (a b : Bool) :
    (s.markFault a).markFault b = s.markFault (a || b) := by
  simp [State.markFault, Bool.or_assoc]

/-- The written bits decide the mark, and no mark changes them. -/
@[simp] theorem State.addressUnwritten_markFault (s : State) (b : Bool) (len : Nat) :
    (s.markFault b).addressUnwritten len = s.addressUnwritten len := rfl

/-- ANON's body is that of the typed command of its class. -/
theorem State.beginAnon_cases (s : State) (len : Nat) :
    (len = 4 ∨ len = 16 ∧ mapped s.cur.inSnap = true) ∧ s.beginAnon len = s.beginV4 len ∨
      (len = 16 ∧ mapped s.cur.inSnap = false) ∧ s.beginAnon len = s.beginV6 len ∨
      (len ≠ 4 ∧ len ≠ 16) ∧ s.beginAnon len = s.raiseError .invalidAddress := by
  unfold State.beginAnon classify
  by_cases h4 : len = 4
  · subst h4
    simp [State.beginV4, v4Operand, State.addressUnwritten]
  · by_cases h16 : len = 16
    · subst h16
      cases hm : mapped s.cur.inSnap <;> simp [State.beginV4, State.beginV6, v4Operand, hm]
    · simp [h4, h16, State.addressUnwritten, State.markFault]

/-! ### Unwritten words -/

/-- What the check of the key words says. -/
theorem State.keyUnwritten_iff (s : State) : s.keyUnwritten = true ↔ ∃ i : Fin 16, s.keyWritten[i] = false := by
  simp [State.keyUnwritten, Vector.any_eq_true, Fin.exists_iff]

/-- What the check of the address words says, by the operand's length. -/
theorem State.addressUnwritten_iff (s : State) (len : Nat) :
    s.addressUnwritten len = true ↔
      len = 4 ∧ s.ainWritten[0] = false ∨ len = 16 ∧ ∃ i : Fin 4, s.ainWritten[i] = false := by
  unfold State.addressUnwritten
  by_cases h4 : len = 4
  · simp [h4]
  · by_cases h16 : len = 16 <;> simp [h4, h16, Vector.any_eq_true, Fin.exists_iff]

/-! ### The acceptance steps -/

/-- KEYSETUP is refused while busy, else it is accepted and begins. -/
theorem execKeysetup_cases (len : Nat) (s : State) :
    s.status.busy = true ∧ execKeysetup len s = .next s.refuse ∨
      s.status.busy = false ∧ execKeysetup len s = .next ((s.acceptKey 0x1#4 len).beginKey len) := by
  unfold execKeysetup
  cases s.status.busy <;> simp

/-- ANON_V4 likewise, behind its context check. -/
theorem execAnonV4_cases (len : Nat) (s : State) :
    s.status.busy = true ∧ execAnonV4 len s = .next s.refuse ∨
      s.status.busy = false ∧ execAnonV4 len s = .next ((s.acceptAddress 0x2#4 len).withContext (State.beginV4 len)) := by
  unfold execAnonV4
  cases s.status.busy <;> simp

/-- ANON_V6 likewise. -/
theorem execAnonV6_cases (len : Nat) (s : State) :
    s.status.busy = true ∧ execAnonV6 len s = .next s.refuse ∨
      s.status.busy = false ∧ execAnonV6 len s = .next ((s.acceptAddress 0x3#4 len).withContext (State.beginV6 len)) := by
  unfold execAnonV6
  cases s.status.busy <;> simp

/-- ANON likewise. -/
theorem execAnon_cases (len : Nat) (s : State) :
    s.status.busy = true ∧ execAnon len s = .next s.refuse ∨
      s.status.busy = false ∧ execAnon len s = .next ((s.acceptAddress 0x4#4 len).withContext (State.beginAnon len)) := by
  unfold execAnon
  cases s.status.busy <;> simp

/-! ### The commands never stop -/

/-- Every command answers a next state: it is refused while busy, else it is accepted. -/
theorem exec_next (i : Instr) (s : State) : ∃ t, exec i s = .next t := by
  cases i <;> exact ⟨_, rfl⟩

/-- The only stop of an engine turn is the state that 10_state.md R28 rules out. -/
theorem engineStep_next (s : State) (h : s.status.busy = true → s.phase ≠ .idle) :
    ∃ t, engineStep s = .next t := by
  unfold engineStep
  cases hb : s.status.busy
  · exact ⟨_, rfl⟩
  · cases hp : s.phase
    · exact absurd hp (h hb)
    all_goals exact ⟨_, rfl⟩

/-! ### The datapath -/

/-- The bit of an iteration is the most significant bit of the oracle's output. -/
theorem topBit_eq_msb (o : Block) : topBit o = BitVec.ofBool o.msb := by
  apply BitVec.eq_of_getLsbD_eq
  intro i hi
  have : i = 0 := by omega
  subst this
  simp [topBit, substr, BitVec.msb_eq_getLsbD_last]

@[simp] theorem low32_withLow32 (w : Block) (r : Word) : low32 (withLow32 w r) = r := by
  apply BitVec.eq_of_getLsbD_eq
  intro i hi
  simp [low32, withLow32, hi]
  omega

@[simp] theorem low32_setWidth (w : Word) : low32 (w.setWidth 128) = w := by
  apply BitVec.eq_of_getLsbD_eq
  intro i hi
  simp [low32, hi]
  omega

end Sys2Proof.Machine
end

