-- ==== Sys2Proof/Laws/Loops.lean ====
section
/-!
SUPPORT. Runs of engine turns, and the two loops turn by turn: what the machine holds after n turns is what the pure
loops of Machine/Reference.lean hold after n iterations.
-/

namespace Sys2Proof.Machine

/-- One more turn after a run that did not stop. -/
theorem engineRun_snoc {n : Nat} {s t : State} (h : engineRun n s = .next t) :
    engineRun (n + 1) s = engineStep t := by
  induction n generalizing s with
  | zero =>
    cases h
    simp only [engineRun]
    cases engineStep t <;> rfl
  | succ n ih =>
    rw [engineRun] at h ⊢
    cases hs : engineStep s with
    | next u =>
      rw [hs] at h
      exact ih h
    | fault f =>
      rw [hs] at h
      cases h
    | refused r =>
      rw [hs] at h
      cases h

/-- An idle engine stays where it is. -/
theorem engineRun_idle (n : Nat) (s : State) (h : s.status.busy = false) : engineRun n s = .next s := by
  induction n with
  | zero => rfl
  | succ n ih => simp [engineRun, engineStep, h, ih]

/-- The engine turn of a busy machine is the step of its phase. -/
theorem engineStep_runKey {s : State} (h : s.status.busy = true) (hp : s.phase = .runKey) :
    engineStep s = .next s.keyStep := by
  simp [engineStep, h, hp]

theorem engineStep_runV4 {s : State} (h : s.status.busy = true) (hp : s.phase = .runV4) :
    engineStep s = .next s.stepV4 := by
  simp [engineStep, h, hp]

theorem engineStep_runV6 {s : State} (h : s.status.busy = true) (hp : s.phase = .runV6) :
    engineStep s = .next s.stepV6 := by
  simp [engineStep, h, hp]

/-- The working value of the IPv4 path after an iteration. -/
theorem low32_iterateV4 (s : State) (a : Word) (p : Nat) (hp : s.pos.toNat = p) (hw : low32 s.wr = a)
    (hb : s.blk = v4Block s.pp a p) :
    low32 s.iterateV4.wr = v4Iteration s.contextOracle s.pp a p := by
  simp [State.iterateV4, v4Iteration, State.oracle, State.contextOracle, hw, hb, hp]

/-- The working value of the IPv6 path after an iteration. -/
theorem iterateV6_wr (s : State) (p : Nat) (hp : s.pos.toNat = p) (hb : s.blk = v6Block s.pp s.wr p) :
    s.iterateV6.wr = v6Iteration s.contextOracle s.pp s.wr p := by
  simp only [State.iterateV6, v6Iteration, State.oracle, State.contextOracle, hb, hp]

/-- An IPv4 turn before the last. -/
theorem stepV4_before (s : State) (h : s.pos.toNat < 31) :
    s.stepV4 = { s.iterateV4 with
      pos := s.pos + 1, blk := v4Block s.pp (low32 s.iterateV4.wr) (s.pos.toNat + 1) } := by
  simp [State.stepV4, h]

/-- The last IPv4 turn. -/
theorem stepV4_last (s : State) (h : 31 ≤ s.pos.toNat) :
    s.stepV4 = s.iterateV4.deliver (v4Output (low32 s.iterateV4.wr) s.cur.embed) (v4OutLen s.cur.embed) := by
  simp [State.stepV4, Nat.not_lt.mpr h]

/-- An IPv6 turn before the last. -/
theorem stepV6_before (s : State) (h : s.pos.toNat < 127) :
    s.stepV6 = { s.iterateV6 with pos := s.pos + 1, blk := v6Block s.pp s.iterateV6.wr (s.pos.toNat + 1) } := by
  simp [State.stepV6, h]

/-- The last IPv6 turn. -/
theorem stepV6_last (s : State) (h : s.pos.toNat = 127) :
    s.stepV6 = s.iterateV6.deliver s.iterateV6.wr 16 := by
  simp [State.stepV6, h]

/-- The position counter's increment. -/
theorem ofNat_succ (n : Nat) : (BitVec.ofNat 7 n + 1 : BitVec 7) = BitVec.ofNat 7 (n + 1) := by
  apply BitVec.eq_of_toNat_eq
  simp

/-- The first `n` engine turns of an IPv4 loop that starts on `a`, for `n` up to 31. -/
theorem engineRun_v4 (s : State) (a : Word) (hbusy : s.status.busy = true) (hph : s.phase = .runV4)
    (hpos : s.pos = 0) (hw : low32 s.wr = a) (hb : s.blk = v4Block s.pp a 0) (n : Nat) (hn : n ≤ 31) :
    ∃ v, engineRun n s = .next v ∧ low32 v.wr = v4Loop s.contextOracle s.pp a n ∧
      ∃ o b w, v = { s with
        oblk := o
        bit := b
        wr := w
        pos := BitVec.ofNat 7 n
        blk := v4Block s.pp (v4Loop s.contextOracle s.pp a n) n } := by
  induction n with
  | zero =>
    refine ⟨s, rfl, hw, s.oblk, s.bit, s.wr, ?_⟩
    obtain ⟨⟩ := s
    simp_all [v4Loop]
  | succ n ih =>
    obtain ⟨v, hv, hl, o, b, w, he⟩ := ih (by omega)
    have hp : v.pos.toNat = n := by
      rw [he, BitVec.toNat_ofNat]
      omega
    have hit : low32 v.iterateV4.wr = v4Iteration s.contextOracle s.pp (v4Loop s.contextOracle s.pp a n) n := by
      rw [low32_iterateV4 v _ n hp hl (by rw [he]), he]
      rfl
    refine ⟨_, (engineRun_snoc hv).trans (engineStep_runV4 (by rw [he]; exact hbusy) (by rw [he]; exact hph)), ?_⟩
    rw [stepV4_before _ (by omega), hit, hp]
    refine ⟨rfl, v.iterateV4.oblk, v.iterateV4.bit, v.iterateV4.wr, ?_⟩
    subst he
    rw [← ofNat_succ n]
    rfl

/-- The first `n` engine turns of an IPv6 loop that starts on `a`, for `n` up to 127. -/
theorem engineRun_v6 (s : State) (a : Block) (hbusy : s.status.busy = true) (hph : s.phase = .runV6)
    (hpos : s.pos = 0) (hw : s.wr = a) (hb : s.blk = v6Block s.pp a 0) (n : Nat) (hn : n ≤ 127) :
    ∃ v, engineRun n s = .next v ∧
      ∃ o b, v = { s with
        oblk := o
        bit := b
        wr := v6Loop s.contextOracle s.pp a n
        pos := BitVec.ofNat 7 n
        blk := v6Block s.pp (v6Loop s.contextOracle s.pp a n) n } := by
  induction n with
  | zero =>
    refine ⟨s, rfl, s.oblk, s.bit, ?_⟩
    obtain ⟨⟩ := s
    simp_all [v6Loop]
  | succ n ih =>
    obtain ⟨v, hv, o, b, he⟩ := ih (by omega)
    have hp : v.pos.toNat = n := by
      rw [he, BitVec.toNat_ofNat]
      omega
    refine ⟨_, (engineRun_snoc hv).trans (engineStep_runV6 (by rw [he]; exact hbusy) (by rw [he]; exact hph)),
      v.iterateV6.oblk, v.iterateV6.bit, ?_⟩
    have hit : v.iterateV6.wr = v6Iteration s.contextOracle s.pp (v6Loop s.contextOracle s.pp a n) n := by
      rw [iterateV6_wr v n hp (by rw [he]), he]
      rfl
    rw [stepV6_before _ (by omega), hp, v6Loop, ← hit, ← ofNat_succ n]
    subst he
    rfl

/-- All 32 engine turns of an IPv4 loop: the 31 before the last end in some `v`, and the last delivers. -/
theorem engineRun_v4_all (s : State) (a : Word) (hbusy : s.status.busy = true) (hph : s.phase = .runV4)
    (hpos : s.pos = 0) (hw : low32 s.wr = a) (hb : s.blk = v4Block s.pp a 0) :
    ∃ v o b w, engineRun 32 s = .next (v.iterateV4.deliver
        (v4Output (v4Image s.contextOracle s.pp a) s.cur.embed) (v4OutLen s.cur.embed)) ∧
      v = { s with
        oblk := o
        bit := b
        wr := w
        pos := BitVec.ofNat 7 31
        blk := v4Block s.pp (v4Loop s.contextOracle s.pp a 31) 31 } := by
  obtain ⟨v, hv, hl, o, b, w, he⟩ := engineRun_v4 s a hbusy hph hpos hw hb 31 (by decide)
  have hp : v.pos.toNat = 31 := by
    rw [he]
    rfl
  refine ⟨v, o, b, w, ?_, he⟩
  rw [engineRun_snoc hv, engineStep_runV4 (by rw [he]; exact hbusy) (by rw [he]; exact hph),
    stepV4_last _ (by omega), low32_iterateV4 v _ 31 hp hl (by rw [he]), he]
  rfl

/-- All 128 engine turns of an IPv6 loop. -/
theorem engineRun_v6_all (s : State) (a : Block) (hbusy : s.status.busy = true) (hph : s.phase = .runV6)
    (hpos : s.pos = 0) (hw : s.wr = a) (hb : s.blk = v6Block s.pp a 0) :
    ∃ v o b, engineRun 128 s = .next (v.iterateV6.deliver (v6Image s.contextOracle s.pp a) 16) ∧
      v = { s with
        oblk := o
        bit := b
        wr := v6Loop s.contextOracle s.pp a 127
        pos := BitVec.ofNat 7 127
        blk := v6Block s.pp (v6Loop s.contextOracle s.pp a 127) 127 } := by
  obtain ⟨v, hv, o, b, he⟩ := engineRun_v6 s a hbusy hph hpos hw hb 127 (by decide)
  have hp : v.pos.toNat = 127 := by
    rw [he]
    rfl
  refine ⟨v, o, b, ?_, he⟩
  rw [engineRun_snoc hv, engineStep_runV6 (by rw [he]; exact hbusy) (by rw [he]; exact hph),
    stepV6_last _ (by omega), iterateV6_wr v 127 hp (by rw [he]), he]
  rfl

end Sys2Proof.Machine
end

