-- ==== Sys2Proof/Laws/PerInstr.lean ====
section
/-!
SUPPORT. The per-command family RoundTrip: the encoding of a well-formed command decodes to it (spec/30_encoding.md R80
to R85), one lemma per command.
-/

namespace Sys2Proof.Laws.RoundTrip

/-- The word of a well-formed command decodes to that command: no bit of `LEN` is dropped. -/
def Statement (i : Instr) : Prop :=
  i.wellFormed = true → decode (encode i) = .ok i

/-- The fields of an encoded word. -/
theorem fields_encode (i : Instr) :
    opField (encode i) = i.opcode ∧ res0Field (encode i) = 0 ∧
      lenField (encode i) = BitVec.ofNat 8 i.len ∧ res1Field (encode i) = 0 := by
  unfold opField res0Field lenField res1Field encode
  refine ⟨?_, ?_, ?_, ?_⟩ <;>
    (apply BitVec.eq_of_getLsbD_eq
     intro k hk
     interval_cases k <;> simp)

/-- The decoder sees the opcode and the length of an encoded command. -/
theorem decode_encode_fields (i : Instr) (h : i.len < 256) (hc : commandOf i.opcode i.len = some i) :
    decode (encode i) = .ok i := by
  obtain ⟨hop, h0, hl, h1⟩ := fields_encode i
  have hn : (BitVec.ofNat 8 i.len).toNat = i.len := by
    simp [BitVec.toNat_ofNat]
    omega
  simp [decode, hop, h0, hl, h1, hc, Nat.mod_eq_of_lt h]

theorem keysetup (len : Nat) : Statement (.keysetup len) := fun h =>
  decode_encode_fields _ (by simpa [Instr.wellFormed] using h) rfl

theorem anonV4 (len : Nat) : Statement (.anonV4 len) := fun h =>
  decode_encode_fields _ (by simpa [Instr.wellFormed] using h) rfl

theorem anonV6 (len : Nat) : Statement (.anonV6 len) := fun h =>
  decode_encode_fields _ (by simpa [Instr.wellFormed] using h) rfl

theorem anon (len : Nat) : Statement (.anon len) := fun h =>
  decode_encode_fields _ (by simpa [Instr.wellFormed] using h) rfl

end Sys2Proof.Laws.RoundTrip
end

