-- ==== Sys2Proof/Laws/Step.lean ====
section
/-!
SUPPORT. What a step is, by the head of the moves still to come.
-/

namespace Sys2Proof.Machine

/-- With no move left the engine has its turn. -/
theorem step_nil (s : State) (h : s.moves = []) : step s = engineStep s := by
  simp [step, runNext, h]

/-- The oldest move runs, with the rest still to come. -/
theorem step_cons (s : State) (m : Move) (rest : List Move) (h : s.moves = m :: rest) :
    step s = runMove m { s with moves := rest } := by
  simp [step, runNext, h]

/-- A placed command word is what the next step writes to `CMD`. -/
theorem step_withFetchWord (s : State) (nbits w : Nat) :
    step (s.withFetchWord nbits w) = writeCmd (BitVec.ofNat 32 (w % 2 ^ nbits)) s :=
  rfl

/-- A register is found at its own address. -/
theorem Reg.atAddress_address (base : Nat) (r : Reg) : Reg.atAddress base (r.address base) = Reg.atOffset r.offset := by
  have h := r.offset.isLt
  rw [Reg.atAddress, if_pos (by unfold Reg.address; omega), Reg.address, Nat.add_sub_cancel_left, BitVec.ofNat_toNat,
    BitVec.setWidth_eq]

/-- An engine turn leaves the schedule alone. -/
theorem engineStep_keeps_moves (s t : State) (h : engineStep s = .next t) : t.moves = s.moves := by
  unfold engineStep at h
  split at h
  · cases hp : s.phase <;> simp only [hp] at h
    · cases h
    · cases h
      simp
    · cases h
      unfold State.stepV4
      split <;> simp
    · cases h
      unfold State.stepV6
      split <;> simp
  · cases h
    rfl

end Sys2Proof.Machine
end

