-- ==== Sys2Proof/Laws/Run.lean ====
section
/-!
SUPPORT. What a run does to the moves still to come, and how many of them it takes to the last host access.
-/

namespace Sys2Proof.Machine

/-- A command leaves the schedule alone. -/
theorem exec_keeps_moves (i : Instr) (s t : State) (h : exec i s = .next t) : t.moves = s.moves := by
  cases i with
  | keysetup len =>
    rcases execKeysetup_cases len s with ⟨_, e⟩ | ⟨_, e⟩ <;> rw [exec, e] at h <;> cases h
    · simp
    · rcases (s.acceptKey 0x1#4 len).beginKey_cases len with ⟨_, e⟩ | ⟨_, _, e⟩ | ⟨_, _, e⟩ <;> rw [e] <;> simp
  | anonV4 len =>
    rcases execAnonV4_cases len s with ⟨_, e⟩ | ⟨_, e⟩ <;> rw [exec, e] at h <;> cases h
    · simp
    · rcases (s.acceptAddress 0x2#4 len).withContext_cases (State.beginV4 len) with ⟨_, e⟩ | ⟨_, e⟩ <;> rw [e]
      · rcases (s.acceptAddress 0x2#4 len).beginV4_cases len with ⟨_, _, _, e⟩ | ⟨_, e⟩ <;> rw [e] <;> simp
      · simp
  | anonV6 len =>
    rcases execAnonV6_cases len s with ⟨_, e⟩ | ⟨_, e⟩ <;> rw [exec, e] at h <;> cases h
    · simp
    · rcases (s.acceptAddress 0x3#4 len).withContext_cases (State.beginV6 len) with ⟨_, e⟩ | ⟨_, e⟩ <;> rw [e]
      · rcases (s.acceptAddress 0x3#4 len).beginV6_cases len with ⟨_, e⟩ | ⟨_, e⟩ <;> rw [e] <;> simp
      · simp
  | anon len =>
    rcases execAnon_cases len s with ⟨_, e⟩ | ⟨_, e⟩ <;> rw [exec, e] at h <;> cases h
    · simp
    · rcases (s.acceptAddress 0x4#4 len).withContext_cases (State.beginAnon len) with ⟨_, e⟩ | ⟨_, e⟩ <;> rw [e]
      · rcases (s.acceptAddress 0x4#4 len).beginAnon_cases len with ⟨_, e⟩ | ⟨_, e⟩ | ⟨_, e⟩ <;> rw [e]
        · rcases (s.acceptAddress 0x4#4 len).beginV4_cases len with ⟨_, _, _, e⟩ | ⟨_, e⟩ <;> rw [e] <;> simp
        · rcases (s.acceptAddress 0x4#4 len).beginV6_cases len with ⟨_, e⟩ | ⟨_, e⟩ <;> rw [e] <;> simp
        · simp
      · simp

/-- A move leaves the schedule alone. -/
theorem runMove_keeps_moves (m : Move) (s t : State) (h : runMove m s = .next t) : t.moves = s.moves := by
  cases m with
  | read r => cases h; simp
  | reset => cases h; simp
  | engine => exact engineStep_keeps_moves s t h
  | write r v =>
    cases r with
    | cmd =>
      simp only [runMove, busWrite, writeCmd] at h
      split at h
      · exact exec_keeps_moves _ s t h
      · cases h
        rcases s.acceptIllegal_cases with ⟨_, e⟩ | ⟨_, e⟩ <;> rw [e] <;> simp
    | key i =>
      cases h
      rcases s.writeKey_cases i v with ⟨_, e⟩ | ⟨_, e⟩ <;> simp [e]
    | ain i =>
      cases h
      rcases s.writeAin_cases i v with ⟨_, e⟩ | ⟨_, e⟩ <;> simp [e]
    | status => cases h; rfl
    | aout _ => cases h; rfl
    | reserved _ => cases h; rfl

/-- A step takes exactly the oldest move off the schedule. -/
theorem step_moves (s t : State) (h : step s = .next t) : t.moves = s.moves.tail := by
  cases hm : s.moves with
  | nil =>
    rw [step_nil s hm] at h
    exact (engineStep_keeps_moves s t h).trans hm
  | cons m rest =>
    rw [step_cons s m rest hm] at h
    exact runMove_keeps_moves m _ t h

/-- `n` steps take `n` moves off the schedule. -/
theorem stepRun_moves (n : Nat) (s t : State) (h : stepRun n s = .next t) : t.moves = s.moves.drop n := by
  induction n generalizing s with
  | zero => cases h; rfl
  | succ n ih =>
    rw [stepRun] at h
    cases hs : step s with
    | next u =>
      rw [hs] at h
      rw [ih u h, step_moves s u hs, List.drop_tail]
    | fault f => rw [hs] at h; cases h
    | refused r => rw [hs] at h; cases h

/-- No host access, no move to it. -/
theorem movesToLastAccess_none (moves : List Move) (h : ∀ m ∈ moves, m.isAccess = false) :
    movesToLastAccess moves = 0 := by
  induction moves with
  | nil => rfl
  | cons m rest ih =>
    simp [movesToLastAccess, ih (fun x hx => h x (List.mem_cons_of_mem m hx)), h m List.mem_cons_self]

/-- The last host access is counted, and so is every move before it. -/
theorem movesToLastAccess_append (before : List Move) (m : Move) (after : List Move) (hm : m.isAccess = true)
    (h : ∀ x ∈ after, x.isAccess = false) : movesToLastAccess (before ++ m :: after) = before.length + 1 := by
  induction before with
  | nil => simp [movesToLastAccess, movesToLastAccess_none after h, hm]
  | cons b rest ih => simp [movesToLastAccess, ih]

end Sys2Proof.Machine
end

