-- ==== Sys2Proof/Tests/Slice0.lean ====
section
/-!
SUPPORT. The model's own tests: the well-formedness smoke test, words decoded from the spec's encoding, one step at a
time against spec/95_test_vectors.md, and for every statement with hypotheses a state that meets them all. Expected
values are the spec's, cited at each theorem.
-/

namespace Sys2Proof.Tests

open Sys2Proof.Machine

/-! ### Well-formedness -/

/-- 30_encoding.md R82: 255 is the greatest length. -/
theorem test_wellFormed_max : (Instr.keysetup 255).wellFormed = true ∧ (Instr.anonV4 255).wellFormed = true ∧
    (Instr.anonV6 255).wellFormed = true ∧ (Instr.anon 0).wellFormed = true := by decide

/-- 30_encoding.md R82: the one check refuses a length the field cannot present, for every command. -/
theorem test_illFormed : (Instr.keysetup 256).wellFormed = false ∧ (Instr.anonV4 256).wellFormed = false ∧
    (Instr.anonV6 300).wellFormed = false ∧ (Instr.anon 256).wellFormed = false := by decide

/-! ### Decoding: words written out from the encoding string `0000000000000000LLLLLLLL0000OOOO` of 30_encoding.md R80 -/

/-- R80, R81: `OP = 0001`, `LEN = 01000000`. -/
theorem test_decode_keysetup :
    decode 0b00000000000000000100000000000001#32 = .ok (.keysetup 64) := by rfl

/-- R80, R81: `OP = 0010`, `LEN = 00010000`. -/
theorem test_decode_anonV4 :
    decode 0b00000000000000000001000000000010#32 = .ok (.anonV4 16) := by rfl

/-- R80, R81: `OP = 0011`, `LEN = 00010000`. -/
theorem test_decode_anonV6 :
    decode 0b00000000000000000001000000000011#32 = .ok (.anonV6 16) := by rfl

/-- R80, R81: `OP = 0100`, `LEN = 11111111`, every bit of the field. -/
theorem test_decode_anon :
    decode 0b00000000000000001111111100000100#32 = .ok (.anon 255) := by rfl

/-- R83: reserved opcodes `0x0`, `0x5` and `0xF`, and each reserved field at its lowest and highest bit. -/
theorem test_decode_illegal :
    decode 0x00000000#32 = .error .reservedOp ∧ decode 0x00000405#32 = .error .reservedOp ∧
      decode 0x0000400F#32 = .error .reservedOp ∧ decode 0x00004011#32 = .error .res0Nonzero ∧
      decode 0x00000482#32 = .error .res0Nonzero ∧ decode 0x00010404#32 = .error .res1Nonzero ∧
      decode 0x80001003#32 = .error .res1Nonzero ∧ decode 0x00000415#32 = .error .res0Nonzero :=
  ⟨rfl, rfl, rfl, rfl, rfl, rfl, rfl, rfl⟩

/-- R89: the encoder's words. -/
theorem test_encode :
    encode (.keysetup 64) = 0x00004001#32 ∧ encode (.anonV4 4) = 0x00000402#32 ∧
      encode (.anonV6 16) = 0x00001003#32 ∧ encode (.anon 16) = 0x00001004#32 := by decide

/-- The host's two questions on one word per table row: the decoder gives the row's command. -/
theorem test_decodeTableWord :
    decodeTableWord 32 0x4001 = some (.keysetup 64) ∧ decodeTableWord 32 0x2 = some (.anonV4 0) ∧
      decodeTableWord 32 0x1003 = some (.anonV6 16) ∧ decodeTableWord 32 0x404 = some (.anon 4) ∧
      decodeTableWord 32 0x5 = none :=
  ⟨rfl, rfl, rfl, rfl, rfl⟩

/-! ### The cipher (95_test_vectors.md section 2.0) -/

/-- The FIPS-197 row. -/
theorem test_aes_fips :
    Aes.encrypt 0x000102030405060708090a0b0c0d0e0f101112131415161718191a1b1c1d1e1f#256
      0x00112233445566778899aabbccddeeff#128 = 0x8ea2b7ca516745bfeafc49904b496089#128 := by decide +kernel

/-- The row of key `K_0`. -/
theorem test_aes_zero : Aes.encrypt 0 0 = 0xdc95c078a2408989ad48a21492842087#128 := by decide +kernel

/-! ### Small states -/

/-- The context of key `K_a` (95_test_vectors.md section 2.1.1), an address in `AIN`, idle after its KEYSETUP. -/
def ready (a0 a1 a2 a3 : Word) : State :=
  { State.reset with
    status := { Status.reset with done := true, ctxValid := true }
    ck := 0x6161616161616161616161616161616161616161616161616161616161616161#256
    pad := 0x2ccd45896fc3525e03c7cb97b66895ff61616161616161616161616161616161#256
    pp := 0x2CCD4589#32
    ain := #v[a0, a1, a2, a3]
    ainWritten := Vector.replicate 4 true }

/-- Key `K_a` in the key registers, all written. -/
def keyLoaded : State :=
  { State.reset with key := Vector.replicate 16 0x61616161#32, keyWritten := Vector.replicate 16 true }

/-- The IPv4 loop under `K_a` at a position, with a working value. -/
def inV4 (pos : BitVec 7) (wr : Word) (embed : Bool) : State :=
  { ready 0 0 0 0 with
    status := { busy := true, done := false, ctxValid := true, outValid := false, err := .none, outLen := 0 }
    phase := .runV4
    pos := pos
    wr := wr.setWidth 128
    blk := v4Block 0x2CCD4589#32 wr pos.toNat
    cur := { (ready 0 0 0 0).cur with embed := embed } }

/-- The IPv6 loop under `K_a` at a position, with a working value. -/
def inV6 (pos : BitVec 7) (wr : Block) : State :=
  { ready 0 0 0 0 with
    status := { busy := true, done := false, ctxValid := true, outValid := false, err := .none, outLen := 0 }
    phase := .runV6
    pos := pos
    wr := wr
    blk := v6Block 0x2CCD4589#32 wr pos.toNat }

/-- A machine whose one key 0 the cipher rejects. -/
def rejecting : State :=
  { State.reset with params := { entries := [], rejectedKeys := [0] } }

/-- An idle machine with a result. -/
def withResult : State :=
  { ready 0 0 0 0 with
    status := { busy := false, done := true, ctxValid := true, outValid := true, err := .none, outLen := 16 }
    ob := 0x00112233445566778899aabbccddeeff#128 }

/-- The next state of an outcome, if there is one. -/
def nextOf (o : Host.Outcome State Fault Refusal) : Option State :=
  match o with
  | .next t => some t
  | _ => none

/-- The `STATUS` word after an outcome. -/
def statusAfter (o : Host.Outcome State Fault Refusal) : Option Word :=
  (nextOf o).map (fun t => statusWord t.status)

/-! ### The commands, one step at a time -/

/-- 95_test_vectors.md sections 2.1.1 and 2.1.2: acceptance of `K_a`, wrong lengths, a rejected key. -/
theorem test_keysetup_accepts :
    (nextOf (exec (.keysetup 64) keyLoaded)).map
        (fun t => (statusWord t.status, t.phase, t.ck == (ready 0 0 0 0).ck, t.faulted)) =
      some (0x00000001#32, .runKey, true, false) ∧
      statusAfter (exec (.keysetup 0) State.reset) = some 0x00000012#32 ∧
      statusAfter (exec (.keysetup 63) (ready 0 0 0 0)) = some 0x00000012#32 ∧
      statusAfter (exec (.keysetup 64) rejecting) = some 0x00000022#32 := by decide +kernel

/-- 95_test_vectors.md section 2.1.1, row `K_a`: the one engine step. -/
theorem test_keysetup_derives :
    (nextOf (engineStep ((keyLoaded.acceptKey 0x1#4 64).splitKey))).map
        (fun t => (statusWord t.status, t.phase, t.pad, t.pp)) =
      some (0x00000006#32, .idle,
        0x2ccd45896fc3525e03c7cb97b66895ff61616161616161616161616161616161#256, 0x2CCD4589#32) := by
  decide +kernel

/-- 95_test_vectors.md sections 1.1 and 2.2.3: the block of position 0; not mapped, byte 11 wrong, and no context before
a wrong length. -/
theorem test_anonV4_accepts :
    (nextOf (exec (.anonV4 4) (ready 0x03A80A9A 0 0 0))).map (fun t => (statusWord t.status, t.phase, t.blk)) =
      some (0x00000005#32, .runV4, 0x2c03a80a9a0000000000000000000000#128) ∧
      statusAfter (exec (.anonV4 16) (ready 0x20010DB8 0 0x55556666 0x77778888)) = some 0x00000036#32 ∧
      statusAfter (exec (.anonV4 16) (ready 0 0 0x0000FFFE 0x03A80A9A)) = some 0x00000036#32 ∧
      statusAfter (exec (.anonV4 8) (ready 0 0 0 0)) = some 0x00000036#32 ∧
      statusAfter (exec (.anonV4 8) State.reset) = some 0x00000042#32 := by decide +kernel

/-- 95_test_vectors.md section 1.1: the rows of positions 0 and 31, and the result re-embedded (section 2.2.2). -/
theorem test_v4_rows :
    (nextOf (engineStep (inV4 0 0x03a80a9a#32 false))).map (fun t => (t.oblk, t.bit, t.wr, t.blk, t.pos)) =
        some (0x9b8703346f155f115046a1e2878835b2#128, 1#1, 0x83a80a9a#128,
          0x2c075015340000000000000000000000#128, 1#7) ∧
      (nextOf (engineStep (inV4 31 0xcbaebfbe#32 false))).map (fun t => (statusWord t.status, t.phase, t.ob)) =
        some (0x0000040E#32, .idle, 0xCBAEBFBF000000000000000000000000#128) ∧
      (nextOf (engineStep (inV4 31 0xcbaebfbe#32 true))).map (fun t => (statusWord t.status, t.ob)) =
        some (0x0000100E#32, 0x00000000000000000000FFFFCBAEBFBF#128) := by decide +kernel

/-- 95_test_vectors.md sections 2.3.1 and 2.3.3: the block of position 0, and a wrong length. -/
theorem test_anonV6_accepts :
    (nextOf (exec (.anonV6 16) (ready 0x20010DB8 0 0x55556666 0x77778888))).map
        (fun t => (statusWord t.status, t.phase, t.blk)) =
      some (0x00000005#32, .runV6, 0x2c000000000000005555666677778888#128) ∧
      statusAfter (exec (.anonV6 4) (ready 0 0 0 0)) = some 0x00000036#32 := by decide +kernel

/-- 95_test_vectors.md section 2.3.1: the rows of positions 3, 104 and 127. -/
theorem test_v6_rows :
    (nextOf (engineStep (inV6 3 0x20010db8000000005555666677778888#128))).map (fun t => (t.bit, t.wr, t.blk)) =
        some (1#1, 0x30010db8000000005555666677778888#128, 0x2c000000000000005556666777788880#128) ∧
      (nextOf (engineStep (inV6 104 0x36798ffd810946affffffffff7778888#128))).map (fun t => (t.bit, t.wr, t.blk)) =
        some (1#1, 0x36798ffd810946affffffffff7f78888#128, 0x2c000000000000000000000000000059#128) ∧
      (nextOf (engineStep (inV6 127 0x36798ffd810946affffffffff7ffa8bc#128))).map
          (fun t => (statusWord t.status, t.phase, t.ob)) =
        some (0x0000100E#32, .idle, 0x36798FFD810946AFFFFFFFFFF7FFA8BD#128) := by decide +kernel

/-- 43_dispatch.md R160, corner cases: a mapped operand goes to the IPv4 loop and is re-embedded. -/
theorem test_anon_mapped :
    (nextOf (exec (.anon 16) (ready 0 0 0x0000FFFF 0x03A80A9A))).map (fun t => (t.phase, t.cur.embed, t.blk)) =
      some (.runV4, true, 0x2c03a80a9a0000000000000000000000#128) := by decide +kernel

/-- 43_dispatch.md R160, corner cases: a prefix with one wrong byte goes to the IPv6 loop. -/
theorem test_anon_v6 :
    (nextOf (exec (.anon 16) (ready 0 0 0x0000FFFE 0x03A80A9A))).map (fun t => t.phase) = some .runV6 ∧
      (nextOf (exec (.anon 16) (ready 0 0 0x0001FFFF 0x03A80A9A))).map (fun t => t.phase) = some .runV6 := by
  decide +kernel

/-! ### Steps -/

/-- The host's second question: `step` runs the placed command as the first one after reset. The words are those of
95_test_vectors.md sections 2.1.2, 2.2.3 and 2.5; without a context every anonymize command is `NO_CONTEXT`. -/
theorem test_step_runs_placed :
    statusAfter (step (State.reset.withFetchWord 32 0x4101)) = some 0x00000012#32 ∧
      statusAfter (step (State.reset.withFetchWord 32 0x402)) = some 0x00000042#32 ∧
      statusAfter (step (State.reset.withFetchWord 32 0x1003)) = some 0x00000042#32 ∧
      statusAfter (step (State.reset.withFetchWord 32 0x404)) = some 0x00000042#32 ∧
      statusAfter (step (State.reset.withFetchWord 32 0x415)) = some 0x00000052#32 := by decide +kernel

/-- 10_state.md R39: an unwritten key word sets the mark and the machine goes on. -/
theorem test_unwritten_key_marks :
    (nextOf (exec (.keysetup 64) State.reset)).map (fun t => (t.phase, t.faulted)) = some (.runKey, true) := by
  decide +kernel

/-- 20_memory.md R53: the host writes 3.168.10.154 as `AIN0 = 0x03A80A9A`, byte 0 the most significant. -/
theorem test_ain_packing :
    (inputBuffer #v[0x03A80A9A#32, 0, 0, 0]).extractLsb' 120 8 = 3#8 ∧
      (inputBuffer #v[0x03A80A9A#32, 0, 0, 0]).extractLsb' 96 8 = 154#8 := by decide

/-- 70_reset_and_hazards.md R216: a write while busy sets the mark and is lost. -/
theorem test_busy_write :
    (nextOf (busWrite (.ain 0) 7 (inV4 0 0 false))).map (fun t => (t.refused, t.ain[0])) = some (true, 0) := by
  decide +kernel

/-- 30_encoding.md R91: the expansions of `ISSUE`, `LOADADDR4` and `CHECK`. -/
theorem test_host_notation :
    hostIssue (.keysetup 64) = [.wr .cmd 0x4001] ∧ hostLoadAddr4 0x03A80A9A = [.wr (.ain 0) 0x03A80A9A] ∧
      hostCheck "s" .noContext = [.bne "s" 0xF0 0x40 "FAIL"] ∧ (hostLoadKey 0).length = 16 := by decide +kernel

/-! ### Witnesses: for each statement with hypotheses, a state and operands that meet them all -/

/-- `s` with these moves still to come. -/
def withMoves (s : State) (moves : List Move) : State := { s with moves := moves }

/-- A busy machine in a phase, all else as after reset. -/
def busyIn (p : Phase) : State :=
  { State.reset with status := { Status.reset with busy := true }, phase := p }

/-- A busy machine in the IPv4 loop that meets the invariant, its cipher fixed on one block. -/
def consistent : State :=
  { State.reset with
    status := { Status.reset with busy := true, ctxValid := true }
    phase := .runV4
    params := { entries := [{ key := 0, block := 0, out := 0 }], rejectedKeys := [] }
    blk := v4Block 0 0 0 }

theorem witness_BigEndianPacking : withResult.status.outValid = true := by rfl

theorem witness_RegisterMap :
    Reg.atOffset 0x7C = some (.reserved 5) ∧ Reg.atOffset 0x00 = some .cmd ∧ Reg.atOffset 0x7D = none ∧
      Reg.atAddress 0x1000 0x107C = some (.reserved 5) ∧ Reg.atAddress 0x1000 0x1080 = none ∧
      Reg.atAddress 0x1000 0x0FFC = none := by decide

theorem witness_DecodeEncodeAgree : (Instr.anon 255).wellFormed = true ∧ (Instr.anonV6 0).wellFormed = true := by
  decide

theorem witness_EncodeDecodeAgree : decode 0x00001003#32 = .ok (.anonV6 16) := by rfl

theorem witness_DecodeIsTotal :
    (0x00000010#32 : Word).toNat / 16 % 16 ≠ 0 ∧ (0x00010001#32 : Word).toNat / 65536 ≠ 0 ∧
      (0x00000000#32 : Word).toNat % 16 = 0 ∧ 5 ≤ (0x00000005#32 : Word).toNat % 16 ∧
      ((0x0000FF01#32 : Word).toNat / 16 % 16 = 0 ∧ (0x0000FF01#32 : Word).toNat / 65536 = 0 ∧
        (0x0000FF01#32 : Word).toNat % 16 = 1) ∧
      ((0x00000002#32 : Word).toNat / 65536 = 0 ∧ (0x00000002#32 : Word).toNat % 16 = 2) ∧
      ((0x00000003#32 : Word).toNat / 65536 = 0 ∧ (0x00000003#32 : Word).toNat % 16 = 3) ∧
      (0x00000004#32 : Word).toNat / 65536 = 0 ∧ (0x00000004#32 : Word).toNat % 16 = 4 := by decide

theorem witness_StepRunsDecodedCommand :
    (State.reset.withFetchWord 32 0x404).moves = [.write .cmd 0x404] ∧ decode 0x404#32 = .ok (.anon 4) :=
  ⟨rfl, rfl⟩

theorem witness_EngineTurnsAreServed :
    State.reset.moves = [] ∧ (withMoves State.reset [.engine]).moves = [.engine] ∧
      State.reset.status.busy = false ∧
      ∀ p : Phase, (busyIn p).status.busy = true ∧ (busyIn p).phase = p :=
  ⟨rfl, rfl, rfl, fun _ => ⟨rfl, rfl⟩⟩

theorem witness_ResetInput : (withMoves withResult [.reset, .engine]).moves = .reset :: [.engine] := by rfl

theorem witness_ResetAbortsRunningCommand :
    (withMoves (inV4 5 7 false) [.reset]).status.busy = true ∧
      (withMoves (inV4 5 7 false) [.reset]).moves = .reset :: [] := ⟨rfl, rfl⟩

theorem witness_KeysetupDerivesContext :
    keyLoaded.status.busy = false ∧
      bcKeyOk keyLoaded.params ((keyBuffer keyLoaded.key).extractLsb' 256 256) = true := by decide +kernel

theorem witness_KeysetupWrongLength : (ready 0 0 0 0).status.busy = false ∧ 63 ≠ 64 ∧ 65 ≠ 64 := by decide

theorem witness_KeysetupRejectedKey :
    rejecting.status.busy = false ∧
      bcKeyOk rejecting.params ((keyBuffer rejecting.key).extractLsb' 256 256) = false := by decide +kernel

theorem witness_FailedKeysetupLeavesNoContext :
    rejecting.status.busy = false ∧
      (nextOf (exec (.keysetup 64) rejecting)).map (fun t => t.status.err) = some .keyDerivationFailed := by
  decide +kernel

theorem witness_KeyDerivationIsDeterministic :
    keyLoaded.status.busy = false ∧ { withResult with key := keyLoaded.key }.status.busy = false ∧
      keyLoaded.params = { withResult with key := keyLoaded.key }.params ∧
      (∀ i : Fin 16, keyLoaded.key[i] = { withResult with key := keyLoaded.key }.key[i]) ∧
      bcKeyOk keyLoaded.params ((keyBuffer keyLoaded.key).extractLsb' 256 256) = true :=
  ⟨rfl, rfl, rfl, fun _ => rfl, by decide +kernel⟩

theorem witness_RunKeyEngineStep : (busyIn .runKey).status.busy = true ∧ (busyIn .runKey).phase = .runKey := ⟨rfl, rfl⟩

theorem witness_NoContextIsRaised :
    State.reset.status.busy = false ∧ State.reset.status.ctxValid = false ∧ (ready 0 0 0 0).status.busy = false ∧
      (ready 0 0 0 0).status.ctxValid = true := by decide

theorem witness_InvalidAddressIsRaised :
    (ready 0 0 0xFFFF 7).status.busy = false ∧ (ready 0 0 0xFFFF 7).status.ctxValid = true ∧
      mapped (inputBuffer (ready 0 0 0xFFFF 7).ain) = true ∧
      mapped (inputBuffer (ready 0 0 0xFFFE 7).ain) = false := by decide

theorem witness_AnonV4Completes :
    (ready 9 0 0 0).status.busy = false ∧ (ready 9 0 0 0).status.ctxValid = true ∧ (ready 9 0 0 0).ain[0] = 9 ∧
      (ready 0 0 0xFFFF 9).status.busy = false ∧ (ready 0 0 0xFFFF 9).status.ctxValid = true ∧
      (ready 0 0 0xFFFF 9).ain[0] = 0 ∧ (ready 0 0 0xFFFF 9).ain[1] = 0 ∧
      (ready 0 0 0xFFFF 9).ain[2] = 0x0000FFFF#32 ∧ (ready 0 0 0xFFFF 9).ain[3] = 9 := by decide

theorem witness_AnonV6Completes :
    (ready 0 0 0xFFFF 9).status.busy = false ∧ (ready 0 0 0xFFFF 9).status.ctxValid = true := by decide

theorem witness_AnonCompletes :
    (ready 0 0 0xFFFF 9).status.busy = false ∧ (ready 0 0 0xFFFF 9).status.ctxValid = true ∧
      mapped (inputBuffer (ready 0 0 0xFFFF 9).ain) = true ∧ (ready 1 0 0xFFFF 9).status.busy = false ∧
      (ready 1 0 0xFFFF 9).status.ctxValid = true ∧ mapped (inputBuffer (ready 1 0 0xFFFF 9).ain) = false := by
  decide

theorem witness_AnonAgreesWithTypedCommands :
    State.reset.status.busy = false ∧ (ready 0 0 0xFFFF 9).status.busy = false ∧
      mapped (inputBuffer (ready 0 0 0xFFFF 9).ain) = true ∧ mapped (inputBuffer State.reset.ain) = false ∧
      5 ≠ 4 ∧ 5 ≠ 16 := by decide

/-- A context valid, `AIN0` to `AIN2` written and `AIN3` never. -/
def partlyWritten : State := { ready 0 0 0xFFFF 7 with ainWritten := #v[true, true, true, false] }

/-- The boot KEYSETUP has no context; a word read by 16 bytes is unwritten, the one read by 4 is written. -/
theorem witness_UnwrittenOperandsAreMarked :
    State.reset.status.busy = false ∧ State.reset.status.ctxValid = false ∧ State.reset.keyWritten[15] = false ∧
      State.reset.ainWritten[0] = false ∧ partlyWritten.status.busy = false ∧
      partlyWritten.status.ctxValid = true ∧ partlyWritten.ainWritten[3] = false ∧
      partlyWritten.ainWritten[0] = true ∧ keyLoaded.keyWritten[15] = true := by decide

theorem witness_AnonV4IsDeterministic :
    (ready 9 0 0 0).status.busy = false ∧ (ready 9 1 2 3).status.busy = false ∧
      (ready 9 0 0 0).status.ctxValid = true ∧ (ready 9 1 2 3).status.ctxValid = true ∧
      (ready 9 0 0 0).params = (ready 9 1 2 3).params ∧ (ready 9 0 0 0).ck = (ready 9 1 2 3).ck ∧
      (ready 9 0 0 0).pp = (ready 9 1 2 3).pp ∧ (ready 9 0 0 0).ain[0] = (ready 9 1 2 3).ain[0] ∧
      mapped (inputBuffer (ready 0 0 0xFFFF 9).ain) = true :=
  ⟨rfl, rfl, rfl, rfl, rfl, rfl, rfl, rfl, by decide⟩

theorem witness_RunV4EngineStep :
    (inV4 30 7 true).status.busy = true ∧ (inV4 30 7 true).phase = .runV4 ∧ (inV4 30 7 true).pos.toNat < 31 ∧
      (inV4 31 7 true).status.busy = true ∧ (inV4 31 7 true).phase = .runV4 ∧ 31 ≤ (inV4 31 7 true).pos.toNat ∧
      31 ≤ (inV4 127 7 true).pos.toNat := by
  decide

theorem witness_RunV6EngineStep :
    (inV6 126 7).status.busy = true ∧ (inV6 126 7).phase = .runV6 ∧ (inV6 126 7).pos.toNat < 127 ∧
      (inV6 127 7).status.busy = true ∧ (inV6 127 7).phase = .runV6 ∧ (inV6 127 7).pos.toNat = 127 := by decide

theorem witness_V4WindowUsesOriginalBits : 31 ≤ 31 ∧ 0 ≤ 31 ∧ 31 < 32 ∧ ¬ 31 ≤ 30 := by decide

/-- An oracle that answers zero merges nothing, so the IPv4 map is the identity, which is injective. -/
theorem witness_V4InjectiveOnlyIfIdentity : Function.Injective (v4Image (fun _ => 0) 5) := by
  have h : ∀ a n, v4Loop (fun _ => 0) 5 a n = a := by
    intro a n
    induction n with
    | zero => rfl
    | succ n ih =>
      rw [v4Loop, ih]
      simp [v4Iteration, mergeBit, topBit, substr]
  intro a b hab
  rwa [v4Image, v4Image, h, h] at hab

theorem witness_V6BlockContent :
    63 ≤ 127 ∧ 63 ≤ 63 ∧ ¬ 64 ≤ 63 ∧ 64 ≤ 96 ∧ 96 ≤ 96 ∧ ¬ 97 ≤ 96 ∧ 127 ≤ 127 := by decide

theorem witness_V6LoopIsOrOfOracleBits : 64 ≤ 64 ∧ 64 ≤ 96 ∧ 96 ≤ 96 := by decide

theorem witness_V6ContainmentAndInjectivity : Function.Injective (v6Image (fun _ => 0) 5) := by
  have h : ∀ a n, v6Loop (fun _ => 0) 5 a n = a := by
    intro a n
    induction n with
    | zero => rfl
    | succ n ih =>
      rw [v6Loop, ih]
      simp [v6Iteration, mergeBit, topBit, substr]
  intro a b hab
  rwa [v6Image, v6Image, h, h] at hab

theorem witness_IllegalWordCompletesAtOnce :
    (withMoves withResult [.write .cmd 0x0]).moves = [.write .cmd 0x0] ∧ withResult.status.busy = false ∧
      (0x00000000#32 : Word).toNat % 16 = 0 ∧ 5 ≤ (0x00000005#32 : Word).toNat % 16 ∧
      (0x00000011#32 : Word).toNat / 16 % 16 ≠ 0 ∧ (0x00010001#32 : Word).toNat / 65536 ≠ 0 :=
  ⟨rfl, rfl, by decide, by decide, by decide, by decide⟩

theorem witness_ErrorsArePrecise :
    (nextOf (exec (.anon 4) State.reset)).map (fun t => t.status.err) = some .noContext ∧
      (nextOf (exec (.anon 5) (ready 0 0 0 0))).map (fun t => t.status.err) = some .invalidAddress ∧
      (nextOf (exec (.keysetup 5) (ready 0 0 0 0))).map (fun t => t.status.err) = some .invalidKeyLength ∧
      (nextOf (exec (.keysetup 64) rejecting)).map (fun t => t.status.err) = some .keyDerivationFailed ∧
      rejecting.status.busy = false := by decide +kernel

theorem witness_EngineStepCounts :
    (ready 0 0 0xFFFF 9).status.busy = false ∧ (ready 0 0 0xFFFF 9).status.ctxValid = true ∧
      mapped (inputBuffer (ready 0 0 0xFFFF 9).ain) = true ∧
      bcKeyOk (ready 0 0 0xFFFF 9).params ((keyBuffer (ready 0 0 0xFFFF 9).key).extractLsb' 256 256) = true := by
  decide +kernel

theorem witness_CommandFrame : ∃ t, exec (.anon 4) (ready 9 0 0 0) = .next t := ⟨_, rfl⟩

theorem witness_BusyWritesAreRefused :
    (withMoves (inV4 5 7 false) [.write (.key 15) 1]).status.busy = true ∧
      (withMoves (inV4 5 7 false) [.write (.key 15) 1]).moves = [.write (.key 15) 1] := ⟨rfl, rfl⟩

theorem witness_IgnoredAccesses :
    (withMoves (inV4 5 7 false) [.write (.reserved 0) 1]).moves = [.write (.reserved 0) 1] ∧
      (withMoves (inV4 5 7 false) [.read (.key 0)]).moves = [.read (.key 0)] := ⟨rfl, rfl⟩

theorem witness_HostReads :
    (withMoves withResult [.read (.aout 3)]).moves = [.read (.aout 3)] ∧ withResult.status.outValid = true ∧
      (withMoves State.reset [.read (.aout 3)]).moves = [.read (.aout 3)] ∧
      State.reset.status.outValid = false ∧ (withMoves State.reset [.read .status]).moves = [.read .status] ∧
      (withMoves State.reset [.read (.ain 0)]).moves = [.read (.ain 0)] := ⟨rfl, rfl, rfl, rfl, rfl, rfl⟩

theorem witness_OperandWrites :
    State.reset.status.busy = false ∧
      (withMoves State.reset [.write (.key 15) 7]).moves = [.write (.key 15) 7] ∧
      (withMoves State.reset [.write (.ain 3) 7]).moves = [.write (.ain 3) 7] := ⟨rfl, rfl, rfl⟩

theorem witness_AddressReadsBack :
    State.reset.status.busy = false ∧
      (withMoves State.reset [.write (.ain 3) 7, .read (.ain 0)]).moves =
        .write (.ain 3) 7 :: .read (.ain 0) :: [] := ⟨rfl, rfl⟩

/-- Two states that differ in a secret, the key buffer, and in what the host cannot read, `OB` without a result. -/
theorem witness_HostCannotSeeSecrets :
    (ready 1 2 3 4).status = { ready 1 2 3 4 with key := keyLoaded.key, ob := 7 }.status ∧
      (ready 1 2 3 4).ain = { ready 1 2 3 4 with key := keyLoaded.key, ob := 7 }.ain ∧
      (ready 1 2 3 4).status.outValid = false ∧
      (ready 1 2 3 4).freeCount = { ready 1 2 3 4 with key := keyLoaded.key, ob := 7 }.freeCount :=
  ⟨rfl, rfl, rfl, rfl⟩

theorem witness_SnapshotsProtectTheCommand : ∃ t, engineRun 3 (inV4 5 7 false) = .next t := ⟨_, rfl⟩

theorem witness_AcceptanceClearsResult :
    (withMoves withResult [.write .cmd 0x404]).status.busy = false ∧
      (withMoves withResult [.write .cmd 0x404]).moves = [.write .cmd 0x404] := ⟨rfl, rfl⟩

/-- A busy state that meets the invariant, for `StepKeepsInvariant`, `NoStepStops`, `StatusValues` and
`EveryCommandCompletes`: its context is that of a zero key under a cipher that maps the zero block to itself. -/
theorem witness_StepKeepsInvariant : consistent.Inv ∧ ∃ t, step consistent = .next t := by
  refine ⟨?_, _, rfl⟩
  constructor <;> simp [consistent, Status.reset, State.reset, bcKeyOk, substr, low32]
  exact ⟨0, by decide +kernel⟩

theorem witness_MarksAreSticky :
    ∃ t, step { State.reset with faulted := true, refused := true, moves := [.reset] } = .next t := ⟨_, rfl⟩

/-- An anonymize word while idle; a read, and a KEYSETUP word that is refused, while KEYSETUP runs; an engine turn of
the IPv4 loop; an engine turn while idle. -/
theorem witness_OnlyKeysetupChangesContext :
    ((∃ t, step (withMoves (ready 9 0 0 0) [.write .cmd 0x404]) = .next t) ∧ decode 0x404#32 = .ok (.anon 4)) ∧
      (∃ t, step (withMoves (busyIn .runKey) [.read .status]) = .next t) ∧
      ((∃ t, step (withMoves (busyIn .runKey) [.write .cmd 0x4001]) = .next t) ∧
        decode 0x4001#32 = .ok (.keysetup 64) ∧ (busyIn .runKey).status.busy = true) ∧
      ((∃ t, step (withMoves (inV4 5 7 false) [.engine]) = .next t) ∧ (inV4 5 7 false).phase ≠ .runKey) ∧
      (∃ t, step State.reset = .next t) ∧ State.reset.status.busy = false :=
  ⟨⟨⟨_, rfl⟩, rfl⟩, ⟨_, rfl⟩, ⟨⟨_, rfl⟩, rfl, rfl⟩, ⟨⟨_, rfl⟩, by decide⟩, ⟨_, rfl⟩, rfl⟩

theorem witness_OutputChangesOnlyAtCompletion :
    (withMoves (inV4 31 7 false) [.engine]).moves = [.engine] ∧
      (nextOf (step (withMoves (inV4 31 7 false) [.engine]))).map (fun t => decide (t.ob = 0)) = some false ∧
      (withMoves (inV4 31 7 false) [.engine]).ob = 0 := by decide +kernel

/-- Accesses before and after an engine turn, and a schedule with none. -/
theorem witness_RunEndsAtLastAccess :
    (withMoves State.reset [.engine, .read .status, .engine, .reset]).moves =
        [.engine] ++ .read .status :: [.engine, .reset] ∧
      Move.isAccess (.read .status) = true ∧ Move.isAccess .engine = false ∧ Move.isAccess .reset = false ∧
      (∃ t, (withMoves State.reset [.engine, .read .status, .engine, .reset]).endOfRun = .next t) ∧
      State.reset.moves = [] := ⟨rfl, rfl, rfl, rfl, ⟨_, rfl⟩, rfl⟩

/-! ### The end of a run (70_reset_and_hazards.md R225) -/

/-- The last access finds the command running: not final, although the engine ends it right after. The access after
that turn: final. An access still to come is part of the run: here it is refused. -/
theorem test_isFinal :
    (withMoves (inV4 31 0xcbaebfbe#32 false) [.read .status, .engine]).isFinal = false ∧
      (withMoves (inV4 31 0xcbaebfbe#32 false) [.engine, .read .status]).isFinal = true ∧
      (withMoves (inV4 31 0xcbaebfbe#32 false) [.write (.ain 0) 7, .engine, .read .status]).isFinal = false ∧
      (withMoves (inV4 31 0xcbaebfbe#32 false) [.engine, .read .status]).finalObservation =
        some { status := 0x0000040E#32, aout := some 0xCBAEBFBF000000000000000000000000#128, ctxValid := true } := by
  decide +kernel

/-- The same for a host program of one access, a read of `STATUS`: the schedule decides. A program that has a line left
has not ended. -/
theorem test_hostRunIsFinal :
    hostRunIsFinal [.rd .status "s"] [.host, .engine] ⟨0, [], inV4 31 7 false⟩ = false ∧
      hostRunIsFinal [.rd .status "s"] [.engine, .host] ⟨0, [], inV4 31 7 false⟩ = true ∧
      hostRunIsFinal [.rd .status "s"] [.engine] ⟨0, [], inV4 31 7 false⟩ = false := by decide +kernel

end Sys2Proof.Tests
end

section
/-!
PROOF. Every cipher and every key check is some `Params` (00_scope.md R6): the keys and blocks are finitely many, so
`entries` can tabulate a whole cipher and `rejectedKeys` can list every key that a key check refuses.
-/

namespace Sys2Proof.Machine

/-- There are finitely many words of a width, as the docstring of `Params` says of keys and blocks. -/
theorem exists_list_of_words (w : Nat) : ∃ words : List (BitVec w), ∀ v, v ∈ words :=
  have : Finite (BitVec w) := Finite.of_injective BitVec.toFin fun _ _ => BitVec.eq_of_toFin_eq
  have ⟨words, _, hall⟩ := Finite.exists_univ_list (BitVec w)
  ⟨words, hall⟩

/-- Of several entries for `k` and `b` the first counts, so all entries have to agree with `f`. -/
theorem bcValue_eq_of_entries {p : Params} {f : Key256 → Block → Block} {k : Key256} {b : Block}
    (agree : ∀ e ∈ p.entries, e.out = f e.key e.block)
    (covered : ∃ e ∈ p.entries, e.key = k ∧ e.block = b) : bcValue p k b = f k b := by
  unfold bcValue
  split
  case h_1 e hfind =>
    have hmatch : e.key = k ∧ e.block = b := by simpa using List.find?_some hfind
    obtain ⟨rfl, rfl⟩ := hmatch
    exact agree e (List.mem_of_find?_eq_some hfind)
  case h_2 hfind =>
    obtain ⟨e, hmem, hkey, hblock⟩ := covered
    have hmiss := List.find?_eq_none.mp hfind e hmem
    simp [hkey, hblock] at hmiss

theorem bcKeyOk_eq_true_iff (p : Params) (k : Key256) : bcKeyOk p k = true ↔ k ∉ p.rejectedKeys := by
  simp [bcKeyOk]

/-- The parameters that follow `f` on `keys` and `blocks` and refuse those of `keys` that `g` refuses. -/
def Params.tabulate (keys : List Key256) (blocks : List Block) (f : Key256 → Block → Block) (g : Key256 → Bool) :
    Params where
  entries := keys.flatMap fun k => blocks.map fun b => ⟨k, b, f k b⟩
  rejectedKeys := keys.filter fun k => !g k

theorem Params.mem_entries_tabulate {keys : List Key256} {blocks : List Block} {f : Key256 → Block → Block}
    {g : Key256 → Bool} {e : CipherEntry} :
    e ∈ (Params.tabulate keys blocks f g).entries ↔ ∃ k ∈ keys, ∃ b ∈ blocks, ⟨k, b, f k b⟩ = e := by
  simp [Params.tabulate]

theorem bcValue_tabulate {keys : List Key256} {blocks : List Block} {f : Key256 → Block → Block} {g : Key256 → Bool}
    {k : Key256} {b : Block} (hk : k ∈ keys) (hb : b ∈ blocks) :
    bcValue (Params.tabulate keys blocks f g) k b = f k b := by
  apply bcValue_eq_of_entries
  · intro e he
    obtain ⟨_, _, _, _, rfl⟩ := Params.mem_entries_tabulate.mp he
    rfl
  · exact ⟨⟨k, b, f k b⟩, Params.mem_entries_tabulate.mpr ⟨k, hk, b, hb, rfl⟩, rfl, rfl⟩

theorem bcKeyOk_tabulate {keys : List Key256} {blocks : List Block} {f : Key256 → Block → Block} {g : Key256 → Bool}
    {k : Key256} (hk : k ∈ keys) : bcKeyOk (Params.tabulate keys blocks f g) k = g k := by
  rw [Bool.eq_iff_iff, bcKeyOk_eq_true_iff]
  simp [Params.tabulate, hk]

/-- Settles O1: the table over all keys and all blocks is such a value. -/
theorem everyCipherIsAParameter : Obligations.EveryCipherIsAParameter := by
  intro f g
  obtain ⟨keys, hkeys⟩ := exists_list_of_words 256
  obtain ⟨blocks, hblocks⟩ := exists_list_of_words 128
  exact ⟨Params.tabulate keys blocks f g, fun k b => bcValue_tabulate (hkeys k) (hblocks b),
    fun k => bcKeyOk_tabulate (hkeys k)⟩

end Sys2Proof.Machine
end

section
/-!
PROOF. What one step can do, said once: the state that each move answers, as an inductive relation with one case per
outcome of a move. The proofs about all steps split along its cases.
-/

namespace Sys2Proof.Machine

/-- The state `t` that the move `m` answers in `s`. A command's acceptance step has one case per way it ends
(60_exceptions.md R181, R183), but for KEYSETUP, whose endings `State.beginKey_cases` lists. The cases say what can
happen, not which command or register brought it about: no proof about all steps asks for that. -/
inductive Transition (s : State) : Move → State → Prop
  | read (r : Reg) : Transition s (.read r) (s.busRead r)
  | reset : Transition s .reset s.applyReset
  /-- A write of a read-only or reserved register (20_memory.md R58). -/
  | ignoredWrite (r : Reg) (v : Word) : Transition s (.write r v) s
  /-- A write of `CMD`, `KEYi` or `AINi` while busy (70_reset_and_hazards.md R216). -/
  | refusedWrite (r : Reg) (v : Word) (busy : s.status.busy = true) : Transition s (.write r v) s.refuse
  | keyWrite (i : Fin 16) (v : Word) (idle : s.status.busy = false) :
      Transition s (.write (.key i) v) { s with key := s.key.set i v, keyWritten := s.keyWritten.set i true }
  | ainWrite (i : Fin 4) (v : Word) (idle : s.status.busy = false) :
      Transition s (.write (.ain i) v) { s with ain := s.ain.set i v, ainWritten := s.ainWritten.set i true }
  | illegalWord (w : Word) (idle : s.status.busy = false) :
      Transition s (.write .cmd w) (s.beginCommand.raiseError .illegalCommand)
  | keysetup (w : Word) (len : Nat) (idle : s.status.busy = false) (dec : decode w = .ok (.keysetup len)) :
      Transition s (.write .cmd w) ((s.acceptKey 0x1#4 len).beginKey len)
  | noContext (w : Word) (op : BitVec 4) (len : Nat) (idle : s.status.busy = false)
      (ctx : s.status.ctxValid = false) :
      Transition s (.write .cmd w) ((s.acceptAddress op len).raiseError .noContext)
  | invalidAddress (w : Word) (op : BitVec 4) (len : Nat) (unread : Bool) (idle : s.status.busy = false)
      (ctx : s.status.ctxValid = true) :
      Transition s (.write .cmd w) (((s.acceptAddress op len).markFault unread).raiseError .invalidAddress)
  | startV4 (w : Word) (op : BitVec 4) (len : Nat) (unread : Bool) (a : Word) (embed : Bool)
      (idle : s.status.busy = false) (ctx : s.status.ctxValid = true) :
      Transition s (.write .cmd w) (((s.acceptAddress op len).markFault unread).startV4 a embed)
  | startV6 (w : Word) (op : BitVec 4) (len : Nat) (unread : Bool) (idle : s.status.busy = false)
      (ctx : s.status.ctxValid = true) :
      Transition s (.write .cmd w) ((s.acceptAddress op len).markFault unread).startV6
  | idleTurn (idle : s.status.busy = false) : Transition s .engine s
  | keyTurn (busy : s.status.busy = true) (phase : s.phase = .runKey) : Transition s .engine s.keyStep
  | v4Turn (busy : s.status.busy = true) (phase : s.phase = .runV4) (pos : s.pos.toNat < 31) :
      Transition s .engine { s.iterateV4 with
        pos := s.pos + 1, blk := v4Block s.pp (low32 s.iterateV4.wr) (s.pos.toNat + 1) }
  | v4LastTurn (busy : s.status.busy = true) (phase : s.phase = .runV4) (pos : 31 ≤ s.pos.toNat) :
      Transition s .engine
        (s.iterateV4.deliver (v4Output (low32 s.iterateV4.wr) s.cur.embed) (v4OutLen s.cur.embed))
  | v6Turn (busy : s.status.busy = true) (phase : s.phase = .runV6) (pos : s.pos.toNat < 127) :
      Transition s .engine { s.iterateV6 with
        pos := s.pos + 1, blk := v6Block s.pp s.iterateV6.wr (s.pos.toNat + 1) }
  | v6LastTurn (busy : s.status.busy = true) (phase : s.phase = .runV6) (pos : s.pos.toNat = 127) :
      Transition s .engine (s.iterateV6.deliver s.iterateV6.wr 16)

/-! ### Every step is a transition -/

@[simp] theorem State.markFault_false (s : State) : s.markFault false = s := by
  simp [State.markFault]

section Anonymize

variable {s : State} {w : Word} {op : BitVec 4} {len : Nat}

theorem transition_beginV4 (idle : s.status.busy = false) (ctx : s.status.ctxValid = true) (n : Nat) :
    Transition s (.write .cmd w) ((s.acceptAddress op len).beginV4 n) := by
  rcases (s.acceptAddress op len).beginV4_cases n with ⟨a, e, _, h⟩ | ⟨_, h⟩ <;> rw [h]
  · exact .startV4 w op len _ a e idle ctx
  · exact .invalidAddress w op len _ idle ctx

theorem transition_beginV6 (idle : s.status.busy = false) (ctx : s.status.ctxValid = true) (n : Nat) :
    Transition s (.write .cmd w) ((s.acceptAddress op len).beginV6 n) := by
  rcases (s.acceptAddress op len).beginV6_cases n with ⟨_, h⟩ | ⟨_, h⟩ <;> rw [h]
  · exact .startV6 w op len _ idle ctx
  · simpa using Transition.invalidAddress w op len false idle ctx

theorem transition_beginAnon (idle : s.status.busy = false) (ctx : s.status.ctxValid = true) (n : Nat) :
    Transition s (.write .cmd w) ((s.acceptAddress op len).beginAnon n) := by
  rcases (s.acceptAddress op len).beginAnon_cases n with ⟨_, h⟩ | ⟨_, h⟩ | ⟨_, h⟩ <;> rw [h]
  · exact transition_beginV4 idle ctx n
  · exact transition_beginV6 idle ctx n
  · simpa using Transition.invalidAddress w op len false idle ctx

theorem transition_withContext (idle : s.status.busy = false) {body : State → State}
    (hbody : s.status.ctxValid = true → Transition s (.write .cmd w) (body (s.acceptAddress op len))) :
    Transition s (.write .cmd w) ((s.acceptAddress op len).withContext body) := by
  rcases (s.acceptAddress op len).withContext_cases body with ⟨ctx, h⟩ | ⟨ctx, h⟩ <;> rw [h]
  · exact hbody ctx
  · exact .noContext w op len idle ctx

end Anonymize

theorem transition_exec {s t : State} {i : Instr} {w : Word} (hd : decode w = .ok i) (h : exec i s = .next t) :
    Transition s (.write .cmd w) t := by
  cases i with
  | keysetup len =>
    rcases execKeysetup_cases len s with ⟨hb, e⟩ | ⟨hb, e⟩ <;> rw [exec, e] at h <;> cases h
    · exact .refusedWrite _ w hb
    · exact .keysetup w len hb hd
  | anonV4 len =>
    rcases execAnonV4_cases len s with ⟨hb, e⟩ | ⟨hb, e⟩ <;> rw [exec, e] at h <;> cases h
    · exact .refusedWrite _ w hb
    · exact transition_withContext hb fun ctx => transition_beginV4 hb ctx len
  | anonV6 len =>
    rcases execAnonV6_cases len s with ⟨hb, e⟩ | ⟨hb, e⟩ <;> rw [exec, e] at h <;> cases h
    · exact .refusedWrite _ w hb
    · exact transition_withContext hb fun ctx => transition_beginV6 hb ctx len
  | anon len =>
    rcases execAnon_cases len s with ⟨hb, e⟩ | ⟨hb, e⟩ <;> rw [exec, e] at h <;> cases h
    · exact .refusedWrite _ w hb
    · exact transition_withContext hb fun ctx => transition_beginAnon hb ctx len

theorem transition_writeCmd {s t : State} {w : Word} (h : writeCmd w s = .next t) :
    Transition s (.write .cmd w) t := by
  unfold writeCmd at h
  cases hd : decode w with
  | ok i =>
    rw [hd] at h
    exact transition_exec hd h
  | error e =>
    rw [hd] at h
    cases h
    rcases s.acceptIllegal_cases with ⟨hb, h⟩ | ⟨hb, h⟩ <;> rw [h]
    · exact .refusedWrite _ w hb
    · exact .illegalWord w hb

theorem transition_busWrite {s t : State} {r : Reg} {v : Word} (h : busWrite r v s = .next t) :
    Transition s (.write r v) t := by
  cases r with
  | cmd => exact transition_writeCmd h
  | key i =>
    cases h
    rcases s.writeKey_cases i v with ⟨hb, h⟩ | ⟨hb, h⟩ <;> rw [h]
    · exact .refusedWrite _ v hb
    · exact .keyWrite i v hb
  | ain i =>
    cases h
    rcases s.writeAin_cases i v with ⟨hb, h⟩ | ⟨hb, h⟩ <;> rw [h]
    · exact .refusedWrite _ v hb
    · exact .ainWrite i v hb
  | status => cases h; exact .ignoredWrite _ v
  | aout i => cases h; exact .ignoredWrite _ v
  | reserved i => cases h; exact .ignoredWrite _ v

theorem transition_stepV4 {s : State} (busy : s.status.busy = true) (phase : s.phase = .runV4) :
    Transition s .engine s.stepV4 := by
  rcases Nat.lt_or_ge s.pos.toNat 31 with hp | hp
  · rw [stepV4_before s hp]
    exact .v4Turn busy phase hp
  · rw [stepV4_last s hp]
    exact .v4LastTurn busy phase hp

theorem transition_stepV6 {s : State} (busy : s.status.busy = true) (phase : s.phase = .runV6) :
    Transition s .engine s.stepV6 := by
  rcases Nat.lt_or_ge s.pos.toNat 127 with hp | hp
  · rw [stepV6_before s hp]
    exact .v6Turn busy phase hp
  · have hlast : s.pos.toNat = 127 := by omega
    rw [stepV6_last s hlast]
    exact .v6LastTurn busy phase hlast

theorem transition_engineStep {s t : State} (h : engineStep s = .next t) : Transition s .engine t := by
  cases hb : s.status.busy with
  | false =>
    simp only [engineStep, hb] at h
    cases h
    exact .idleTurn hb
  | true =>
    cases hp : s.phase with
    | idle => simp [engineStep, hb, hp] at h
    | runKey =>
      rw [engineStep_runKey hb hp] at h
      cases h
      exact .keyTurn hb hp
    | runV4 =>
      rw [engineStep_runV4 hb hp] at h
      cases h
      exact transition_stepV4 hb hp
    | runV6 =>
      rw [engineStep_runV6 hb hp] at h
      cases h
      exact transition_stepV6 hb hp

theorem transition_runMove {s t : State} {m : Move} (h : runMove m s = .next t) : Transition s m t := by
  cases m with
  | read r => cases h; exact .read r
  | write r v => exact transition_busWrite h
  | engine => exact transition_engineStep h
  | reset => cases h; exact .reset

/-! ### No move but the engine's can stop -/

theorem busWrite_next (r : Reg) (v : Word) (s : State) : ∃ t, busWrite r v s = .next t := by
  cases r with
  | cmd =>
    rw [busWrite, writeCmd]
    cases decode v with
    | ok i => exact exec_next i s
    | error e => exact ⟨_, rfl⟩
  | _ => exact ⟨_, rfl⟩

theorem runMove_next (m : Move) (s : State) (h : s.status.busy = true → s.phase ≠ .idle) :
    ∃ t, runMove m s = .next t := by
  cases m with
  | read r => exact ⟨_, rfl⟩
  | write r v => exact busWrite_next r v s
  | engine => exact engineStep_next s h
  | reset => exact ⟨_, rfl⟩

/-! ### The step by its next move -/

/-- The move that a step runs: the oldest one still to come, or the engine's turn where none is left
(70_reset_and_hazards.md R222). -/
def State.nextMove (s : State) : Move := s.moves.headD .engine

theorem step_eq_runMove (s : State) : step s = runMove s.nextMove { s with moves := s.moves.tail } := by
  cases hm : s.moves with
  | nil =>
    have hs : { s with moves := [] } = s := by rw [← hm]
    rw [step_nil s hm, State.nextMove, hm, List.tail_nil, hs]
    rfl
  | cons m rest =>
    rw [step_cons s m rest hm, State.nextMove, hm]
    rfl

theorem step_transition {s t : State} (h : step s = .next t) :
    Transition { s with moves := s.moves.tail } s.nextMove t :=
  transition_runMove (step_eq_runMove s ▸ h)

theorem State.moves_of_nextMove {s : State} {m : Move} (h : s.nextMove = m) (hm : m ≠ .engine) :
    s.moves = m :: s.moves.tail := by
  unfold State.nextMove at h
  cases hs : s.moves with
  | nil => simp_all
  | cons m' rest => simp_all

theorem State.moves_of_nextMove_engine {s : State} (h : s.nextMove = .engine) :
    s.moves = [] ∨ ∃ rest, s.moves = .engine :: rest := by
  unfold State.nextMove at h
  cases hs : s.moves with
  | nil => exact .inl rfl
  | cons m rest =>
    rw [hs, List.headD_cons] at h
    exact .inr ⟨rest, by rw [h]⟩

end Sys2Proof.Machine
end

section
/-!
PROOF. The machine's invariant holds at reset and every step keeps it (10_state.md R22, R25, R28, R30 to R32,
60_exceptions.md R182). One lemma per shape of `STATUS` that a step leaves behind says what the invariant asks of such a
state; then each transition has one of these shapes.
-/

namespace Sys2Proof.Machine

/-- What the invariant asks of a valid context (10_state.md R30 to R32). -/
def State.HasContext (s : State) : Prop :=
  bcKeyOk s.params s.ck = true ∧ s.pp = substr 32 s.pad 0 ∧ ∃ seed : Block, substr 128 s.pad 0 = s.oracle seed

/-- What the running phase asks of the datapath: the clauses of the invariant for `RUN_KEY`, `RUN_V4` and `RUN_V6`. -/
def State.PhaseReady (s : State) : Prop :=
  match s.phase with
  | .idle => False
  | .runKey => s.status.ctxValid = false ∧ bcKeyOk s.params s.ck = true ∧
      s.ck = substr 256 s.cur.keySnap 0 ∧ s.pad = substr 256 s.cur.keySnap 32
  | .runV4 => s.status.ctxValid = true ∧ s.pos.toNat ≤ 31 ∧ s.blk = v4Block s.pp (low32 s.wr) s.pos.toNat
  | .runV6 => s.status.ctxValid = true ∧ s.blk = v6Block s.pp s.wr s.pos.toNat

theorem State.PhaseReady.of_runV4 {s : State} (hp : s.phase = .runV4)
    (h : s.status.ctxValid = true ∧ s.pos.toNat ≤ 31 ∧ s.blk = v4Block s.pp (low32 s.wr) s.pos.toNat) :
    s.PhaseReady := by
  simpa only [State.PhaseReady, hp] using h

theorem State.PhaseReady.of_runV6 {s : State} (hp : s.phase = .runV6)
    (h : s.status.ctxValid = true ∧ s.blk = v6Block s.pp s.wr s.pos.toNat) : s.PhaseReady := by
  simpa only [State.PhaseReady, hp] using h

/-! ### `STATUS` by the stage of a command -/

/-- `STATUS` while a command runs (60_exceptions.md R181). -/
def Status.running (ctx : Bool) : Status :=
  { busy := true, done := false, ctxValid := ctx, outValid := false, err := .none, outLen := 0 }

/-- `STATUS` after a command without a result: `complete()` of KEYSETUP, or an error (60_exceptions.md R184, R185). -/
def Status.ended (ctx : Bool) (e : ErrCode) : Status :=
  { busy := false, done := true, ctxValid := ctx, outValid := false, err := e, outLen := 0 }

/-- `STATUS` after a command that delivers a result of `len` bytes (60_exceptions.md R184). -/
def Status.delivered (len : BitVec 8) : Status :=
  { busy := false, done := true, ctxValid := true, outValid := true, err := .none, outLen := len }

/-- Whether an error code can stand beside this value of `CTX_VALID` after a command (60_exceptions.md R191). -/
def ErrCode.allows (e : ErrCode) (ctx : Bool) : Bool :=
  match e with
  | .none | .invalidAddress => ctx
  | .invalidKeyLength | .keyDerivationFailed | .noContext => !ctx
  | .illegalCommand => true

/-! ### What the invariant asks at each stage -/

theorem State.Inv.of_running {t : State} {ctx : Bool} (hst : t.status = Status.running ctx) (hp : t.PhaseReady)
    (hc : ctx = true → t.HasContext) : t.Inv := by
  constructor
  case busy_iff =>
    unfold State.PhaseReady at hp
    cases hph : t.phase <;> simp_all [Status.running]
  case runKey => exact fun h => by simpa [State.PhaseReady, h] using hp
  case runV4 => exact fun h => by simpa [State.PhaseReady, h] using hp
  case runV6 => exact fun h => by simpa [State.PhaseReady, h] using hp
  case context => exact fun h => hc (by simpa [hst, Status.running] using h)
  all_goals simp [hst, Status.running]

theorem State.Inv.of_ended {t : State} {ctx : Bool} {e : ErrCode} (hst : t.status = Status.ended ctx e)
    (hp : t.phase = .idle) (he : e.allows ctx = true) (hc : ctx = true → t.HasContext) : t.Inv := by
  constructor
  case succeeded | contextLost | contextKept => cases e <;> simp_all [Status.ended, ErrCode.allows]
  case context => exact fun h => hc (by simpa [hst, Status.ended] using h)
  all_goals simp [hst, hp, Status.ended]

theorem State.Inv.of_delivered {t : State} {len : BitVec 8} (hst : t.status = Status.delivered len)
    (hp : t.phase = .idle) (hob : len = 16 ∨ len = 4 ∧ substr 96 t.ob 4 = 0) (hc : t.HasContext) : t.Inv := by
  constructor
  case result => simpa [hst, Status.delivered] using hob
  case context => exact fun _ => hc
  all_goals simp [hst, hp, Status.delivered]

theorem State.Inv.of_reset {t : State} (hst : t.status = Status.reset) (hp : t.phase = .idle) : t.Inv := by
  constructor <;> simp [hst, hp, Status.reset]

/-- A host access writes no field that the invariant speaks of; nor does taking a move off the schedule. -/
theorem State.Inv.of_agree {s : State} (h : s.Inv)
    (key ain keyWritten ainWritten faulted refused moves rdata freeCount) :
    State.Inv { s with
      key := key, ain := ain, keyWritten := keyWritten, ainWritten := ainWritten, faulted := faulted,
      refused := refused, moves := moves, rdata := rdata, freeCount := freeCount } := by
  obtain ⟨busy, running, key, v4, v6, result, noResult, notDone, succeeded, lost, kept, context⟩ := h
  exact ⟨busy, running, key, v4, v6, result, noResult, notDone, succeeded, lost, kept, context⟩

/-! ### `STATUS` in a state that meets the invariant -/

theorem State.Inv.status_of_busy {s : State} (h : s.Inv) (busy : s.status.busy = true) :
    s.status = Status.running s.status.ctxValid := by
  obtain ⟨hdone, herr, hout⟩ := h.running busy
  have hlen := h.noResult hout
  rcases hst : s.status with ⟨b, d, c, o, e, l⟩
  simp_all [Status.running]

theorem State.Inv.status_of_idle {s : State} (h : s.Inv) (idle : s.status.busy = false) :
    s.status = Status.reset ∨
      (∃ c : Bool, ∃ e : ErrCode, e.allows c = true ∧ s.status = Status.ended c e) ∨
      ∃ len, (len = 16 ∨ len = 4) ∧ s.status = Status.delivered len := by
  rcases hst : s.status with ⟨b, d, c, o, e, l⟩
  obtain ⟨-, -, -, -, -, result, noResult, notDone, succeeded, lost, kept, -⟩ := h
  cases o with
  | true =>
    obtain ⟨hd, he, hl⟩ := result (by rw [hst])
    refine .inr (.inr ⟨l, ?_, ?_⟩)
    · rcases hl with hl | ⟨hl, -⟩ <;> simp_all
    · simp_all [Status.delivered]
  | false =>
    cases d with
    | false => simp_all [Status.reset]
    | true =>
      refine .inr (.inl ⟨c, e, ?_, ?_⟩)
      · cases e <;> simp_all [ErrCode.allows]
      · simp_all [Status.ended]

/-! ### Every transition keeps the invariant -/

/-- KEYSETUP leaves no context behind its acceptance, whatever the state before it (40_key_setup.md R109). -/
theorem State.Inv.of_beginKey (s : State) (len : Nat) :
    ((s.acceptKey 0x1#4 len).beginKey len).Inv := by
  rcases (s.acceptKey 0x1#4 len).beginKey_cases len with ⟨_, e⟩ | ⟨_, _, e⟩ | ⟨_, hk, e⟩ <;> rw [e]
  · exact .of_ended (ctx := false) rfl rfl rfl nofun
  · exact .of_ended (ctx := false) rfl rfl rfl nofun
  · exact .of_running (ctx := false) rfl ⟨rfl, hk, rfl, rfl⟩ nofun

/-- KEYSETUP derives the context that the invariant asks for: the seed is the first half of its pad
(40_key_setup.md R104). -/
theorem State.Inv.keyStep {s : State} (h : s.Inv) (busy : s.status.busy = true) (phase : s.phase = .runKey) :
    s.keyStep.Inv := by
  obtain ⟨ctx, hok, _, _⟩ := h.runKey phase
  have hst : s.status = Status.running false := ctx ▸ h.status_of_busy busy
  have hpad : substr 128 s.derivedPad 0 = s.oracle (substr 128 s.pad 0) := by
    rw [State.derivedPad, substr_joinAs_left rfl (by decide), substr_full]
  refine .of_ended (ctx := true) (e := .none) ?_ rfl rfl fun _ => ⟨hok, rfl, _, hpad⟩
  simp [hst, Status.running, Status.ended]

/-- A 4-byte result has 12 zero bytes after it (10_state.md R25). -/
theorem v4Output_len (r : Word) (embed : Bool) :
    v4OutLen embed = 16 ∨ v4OutLen embed = 4 ∧ substr 96 (v4Output r embed) 4 = 0 := by
  cases embed with
  | true => exact .inl rfl
  | false =>
    refine .inr ⟨rfl, ?_⟩
    rw [v4Output, if_neg Bool.false_ne_true, substr_joinAs_right (b := 4) rfl rfl (le_refl _) (by decide)]
    exact substr_full _

theorem State.deliver_status {s : State} (h : s.status = Status.running true) (ob : Block) (len : BitVec 8) :
    (s.deliver ob len).status = Status.delivered len := by
  simp [h, Status.running, Status.delivered]

/-- The position counter does not wrap before the last turn of a loop. -/
theorem toNat_succ_of_lt {p : BitVec 7} (h : p.toNat < 127) : (p + 1).toNat = p.toNat + 1 := by
  rw [BitVec.toNat_add]
  exact Nat.mod_eq_of_lt (by simpa using Nat.succ_lt_succ h)

section LoopTurns

variable {s : State} (hs : s.Inv) (busy : s.status.busy = true)
include hs busy

theorem State.Inv.v4Turn (phase : s.phase = .runV4) (pos : s.pos.toNat < 31) :
    State.Inv { s.iterateV4 with
      pos := s.pos + 1, blk := v4Block s.pp (low32 s.iterateV4.wr) (s.pos.toNat + 1) } := by
  obtain ⟨ctx, _, _⟩ := hs.runV4 phase
  have hpos : (s.pos + 1).toNat = s.pos.toNat + 1 := toNat_succ_of_lt (by omega)
  refine .of_running (hs.status_of_busy busy) (.of_runV4 phase ⟨ctx, ?_, ?_⟩) hs.context
  · exact hpos.trans_le pos
  · simp only [hpos, State.iterateV4_keeps]

theorem State.Inv.v4LastTurn (phase : s.phase = .runV4) :
    (s.iterateV4.deliver (v4Output (low32 s.iterateV4.wr) s.cur.embed) (v4OutLen s.cur.embed)).Inv := by
  obtain ⟨ctx, _, _⟩ := hs.runV4 phase
  have hst : s.status = Status.running true := ctx ▸ hs.status_of_busy busy
  exact .of_delivered (s.iterateV4.deliver_status hst _ _) rfl (v4Output_len _ _) (hs.context ctx)

theorem State.Inv.v6Turn (phase : s.phase = .runV6) (pos : s.pos.toNat < 127) :
    State.Inv { s.iterateV6 with
      pos := s.pos + 1, blk := v6Block s.pp s.iterateV6.wr (s.pos.toNat + 1) } := by
  obtain ⟨ctx, _⟩ := hs.runV6 phase
  refine .of_running (hs.status_of_busy busy) (.of_runV6 phase ⟨ctx, ?_⟩) hs.context
  simp only [toNat_succ_of_lt pos, State.iterateV6_keeps]

theorem State.Inv.v6LastTurn (phase : s.phase = .runV6) : (s.iterateV6.deliver s.iterateV6.wr 16).Inv := by
  obtain ⟨ctx, _⟩ := hs.runV6 phase
  have hst : s.status = Status.running true := ctx ▸ hs.status_of_busy busy
  exact .of_delivered (s.iterateV6.deliver_status hst _ _) rfl (.inl rfl) (hs.context ctx)

end LoopTurns

theorem Transition.inv {s t : State} {m : Move} (hs : s.Inv) (h : Transition s m t) : t.Inv := by
  cases h with
  | read r => exact hs.of_agree ..
  | reset => exact .of_reset rfl rfl
  | ignoredWrite r v => exact hs
  | refusedWrite r v busy => exact hs.of_agree ..
  | keyWrite i v idle => exact hs.of_agree ..
  | ainWrite i v idle => exact hs.of_agree ..
  | illegalWord w idle => exact .of_ended (e := .illegalCommand) rfl rfl rfl hs.context
  | keysetup w len idle dec => exact .of_beginKey s len
  | noContext w op len idle ctx =>
    exact .of_ended (e := .noContext) rfl rfl (by simp [ErrCode.allows, ctx]) hs.context
  | invalidAddress w op len unread idle ctx => exact .of_ended (e := .invalidAddress) rfl rfl ctx hs.context
  | startV4 w op len unread a embed idle ctx =>
    refine .of_running rfl (.of_runV4 rfl ⟨ctx, by simp, ?_⟩) hs.context
    simp
  | startV6 w op len unread idle ctx => exact .of_running rfl ⟨ctx, rfl⟩ hs.context
  | idleTurn idle => exact hs
  | keyTurn busy phase => exact hs.keyStep busy phase
  | v4Turn busy phase pos => exact hs.v4Turn busy phase pos
  | v4LastTurn busy phase pos => exact hs.v4LastTurn busy phase
  | v6Turn busy phase pos => exact hs.v6Turn busy phase pos
  | v6LastTurn busy phase pos => exact hs.v6LastTurn busy phase

/-- Settles O51: `STATUS` and `PHASE` at their reset values meet the invariant. -/
theorem invariantAtReset : Obligations.InvariantAtReset :=
  .of_reset rfl rfl

/-- Settles O52: every step is a transition, from the state without the move it takes off the schedule. -/
theorem stepKeepsInvariant : Obligations.StepKeepsInvariant := by
  intro s t hs h
  exact (step_transition h).inv (hs.of_agree (moves := s.moves.tail) ..)

/-- Settles O53: the only stop is the engine's in `BUSY = 1` with `PHASE = IDLE`, which the invariant rules out. -/
theorem noStepStops : Obligations.NoStepStops := by
  intro s hs
  rw [step_eq_runMove]
  exact runMove_next _ _ hs.busy_iff.mp

end Sys2Proof.Machine
end

section
/-!
PROOF. What the steps keep of the marks, the Engine Context and the output buffer (10_state.md R25, R33, R39), and the
values of `STATUS` under the invariant (R22).
-/

namespace Sys2Proof.Machine

/-! ### The sticky marks -/

theorem Transition.faulted_mono {s t : State} {m : Move} (h : Transition s m t) (hf : s.faulted = true) :
    t.faulted = true := by
  cases h with
  | keysetup w len idle dec =>
    rcases (s.acceptKey 0x1#4 len).beginKey_cases len with ⟨_, e⟩ | ⟨_, _, e⟩ | ⟨_, _, e⟩ <;> simp [e, hf]
  | _ => simp [hf]

theorem Transition.refused_mono {s t : State} {m : Move} (h : Transition s m t) (hr : s.refused = true) :
    t.refused = true := by
  cases h with
  | keysetup w len idle dec =>
    rcases (s.acceptKey 0x1#4 len).beginKey_cases len with ⟨_, e⟩ | ⟨_, _, e⟩ | ⟨_, _, e⟩ <;> simp [e, hr]
  | _ => simp [hr]

/-- Settles O56: every transition only adds to the marks. -/
theorem marksAreSticky : Obligations.MarksAreSticky := by
  intro s t h
  exact ⟨(step_transition h).faulted_mono, (step_transition h).refused_mono⟩

/-! ### The Engine Context -/

/-- The moves that may write the Engine Context: a reset, an accepted KEYSETUP, and the engine's turn of a running one
(10_state.md R33). -/
def State.WritesContext (s : State) (m : Move) : Prop :=
  m = .reset ∨ (∃ w len, m = .write .cmd w ∧ decode w = .ok (.keysetup len) ∧ s.status.busy = false) ∨
    m = .engine ∧ s.status.busy = true ∧ s.phase = .runKey

theorem Transition.keeps_context {s t : State} {m : Move} (h : Transition s m t) (hm : ¬ s.WritesContext m) :
    t.ck = s.ck ∧ t.pad = s.pad ∧ t.pp = s.pp ∧ t.status.ctxValid = s.status.ctxValid := by
  cases h with
  | reset => exact absurd (.inl rfl) hm
  | keysetup w len idle dec => exact absurd (.inr (.inl ⟨w, len, rfl, dec, idle⟩)) hm
  | keyTurn busy phase => exact absurd (.inr (.inr ⟨rfl, busy, phase⟩)) hm
  | _ => simp

/-- Settles O57: the three hypotheses say that the step's move does not write the context. -/
theorem onlyKeysetupChangesContext : Obligations.OnlyKeysetupChangesContext := by
  intro s t h hreset hkey hturn
  refine (step_transition h).keeps_context ?_
  rintro (hm | ⟨w, len, hm, dec, idle⟩ | ⟨hm, busy, phase⟩)
  · exact hreset _ (s.moves_of_nextMove hm nofun)
  · have busy := hkey w _ len (s.moves_of_nextMove hm nofun) dec
    exact Bool.false_ne_true (idle.symm.trans busy)
  · exact hturn (s.moves_of_nextMove_engine hm) busy phase

/-! ### The output buffer -/

theorem Transition.ob_eq_or {s t : State} {m : Move} (h : Transition s m t) (hm : m ≠ .reset) :
    t.ob = s.ob ∨
      s.status.busy = true ∧ (s.phase = .runV4 ∧ 31 ≤ s.pos.toNat ∨ s.phase = .runV6 ∧ s.pos.toNat = 127) ∧
        t.status.outValid = true ∧ t.status.done = true ∧ t.status.busy = false := by
  cases h with
  | reset => exact absurd rfl hm
  | keysetup w len idle dec =>
    left
    rcases (s.acceptKey 0x1#4 len).beginKey_cases len with ⟨_, e⟩ | ⟨_, _, e⟩ | ⟨_, _, e⟩ <;> simp [e]
  | v4LastTurn busy phase pos => exact .inr ⟨busy, .inl ⟨phase, pos⟩, rfl, rfl, rfl⟩
  | v6LastTurn busy phase pos => exact .inr ⟨busy, .inr ⟨phase, pos⟩, rfl, rfl, rfl⟩
  | _ =>
    left
    simp

/-- Settles O58: of the transitions but a reset only the last turns of the loops write `OB`. -/
theorem outputChangesOnlyAtCompletion : Obligations.OutputChangesOnlyAtCompletion := by
  intro s t h hreset hob
  have hm : s.nextMove ≠ .reset := fun hm => hreset _ (s.moves_of_nextMove hm nofun)
  exact ((step_transition h).ob_eq_or hm).resolve_left hob

/-! ### The `STATUS` word -/

/-- Settles O2: the value of a concatenation, field by field. -/
theorem statusWordLayout : Obligations.StatusWordLayout := by
  intro st
  rw [statusWord, toNat_joinAs rfl, toNat_joinAs rfl, toNat_joinAs rfl, toNat_joinAs rfl, toNat_joinAs rfl,
    toNat_joinAs rfl]
  simp only [BitVec.toNat_ofBool, BitVec.toNat_ofNat]
  omega

/-- The values of `STATUS` after a command without a result (60_exceptions.md R191). -/
theorem statusWord_ended (ctx : Bool) (e : ErrCode) (h : e.allows ctx = true) :
    statusWord (Status.ended ctx e) ∈
      [0x00000006#32, 0x00000012#32, 0x00000022#32, 0x00000036#32, 0x00000042#32, 0x00000056#32, 0x00000052#32] := by
  revert h
  cases ctx <;> cases e <;> decide

/-- Settles O54: `STATUS` by the stage of a command. -/
theorem statusValues : Obligations.StatusValues := by
  intro s hs
  cases hb : s.status.busy with
  | true =>
    rw [hs.status_of_busy hb]
    cases s.status.ctxValid <;> decide
  | false =>
    rcases hs.status_of_idle hb with hst | ⟨ctx, e, he, hst⟩ | ⟨len, rfl | rfl, hst⟩ <;> rw [hst]
    · decide
    · have hmem := statusWord_ended ctx e he
      simp only [List.mem_cons, List.not_mem_nil, or_false] at hmem ⊢
      tauto
    · decide
    · decide

/-- Settles O12: a fixed state, field by field. -/
theorem resetStateValues : Obligations.ResetStateValues :=
  ⟨by decide, rfl, rfl, by decide, by decide, rfl, rfl⟩

end Sys2Proof.Machine
end

section
/-!
PROOF. Single host accesses, run as the next move of a step (10_state.md R22 to R25, 20_memory.md R57).
-/

namespace Sys2Proof.Machine

section HostAccess

variable {s : State} {rest : List Move}

theorem step_read {r : Reg} (h : s.moves = .read r :: rest) :
    step s = .next (State.busRead r { s with moves := rest }) :=
  step_cons s _ rest h

/-- A read of a register that can be read has no side effect (20_memory.md R57). -/
theorem step_read_readable {r : Reg} {v : Word} (h : s.moves = .read r :: rest) (hr : s.unreadable r = false)
    (hv : s.readValue r = v) : step s = .next { s with moves := rest, rdata := v } := by
  have hr' : State.unreadable { s with moves := rest } r = false := by
    cases r <;> exact hr
  have hv' : State.readValue { s with moves := rest } r = v := by
    cases r <;> exact hv
  rw [step_read h, State.busRead, hr', hv']
  simp

/-- A read of `AOUTi` without a result draws a free value and sets the mark (10_state.md R25, R39). -/
theorem step_read_unreadable {i : Fin 4} (h : s.moves = .read (.aout i) :: rest) (hv : s.status.outValid = false) :
    step s = .next { s with
      moves := rest, faulted := true, rdata := s.free 32 0, freeCount := s.freeCount + 1 } := by
  rw [step_read h, State.busRead]
  simp [State.unreadable, State.readValue, State.free, hv]

theorem step_write_key {i : Fin 16} {v : Word} (h : s.moves = .write (.key i) v :: rest)
    (idle : s.status.busy = false) : step s = .next { s with
      moves := rest, key := s.key.set i v, keyWritten := s.keyWritten.set i true } := by
  rw [step_cons s _ rest h, runMove, busWrite, State.writeKey]
  simp [idle]

theorem step_write_ain {i : Fin 4} {v : Word} (h : s.moves = .write (.ain i) v :: rest)
    (idle : s.status.busy = false) : step s = .next { s with
      moves := rest, ain := s.ain.set i v, ainWritten := s.ainWritten.set i true } := by
  rw [step_cons s _ rest h, runMove, busWrite, State.writeAin]
  simp [idle]

end HostAccess

/-- While `OUT_VALID = 1` a read of `AOUTi` returns register `i` of `OB` (10_state.md R25). -/
theorem State.readValue_aout {s : State} (hv : s.status.outValid = true) (i : Fin 4) :
    s.readValue (.aout i) = s.ob.extractLsb' (96 - 32 * i.val) 32 := by
  have hpos : 128 - 8 * (4 * i.val) - 32 = 96 - 32 * i.val := by omega
  rw [State.readValue, if_pos hv, wordAt, substr, hpos]

/-- A register file after a write, at any register. -/
theorem getElem_set_fin {α : Type} {n : Nat} (xs : Vector α n) (i j : Fin n) (x : α) :
    (xs.set i x)[j] = if j = i then x else xs[j] := by
  simp [Vector.getElem_set, Fin.ext_iff, eq_comm]

/-- Settles O46: the accepted write's next state, register by register. -/
theorem operandWrites : Obligations.OperandWrites := by
  intro s rest v idle
  refine ⟨fun i hm => ⟨_, step_write_key hm idle, ?_, ?_, fun j hj => ?_, rfl⟩,
    fun i hm => ⟨_, step_write_ain hm idle, ?_, ?_, fun j hj => ?_, rfl⟩⟩
  · rw [getElem_set_fin, if_pos rfl]
  · rw [getElem_set_fin, if_pos rfl]
  · simp only [getElem_set_fin, if_neg hj, and_self]
  · rw [getElem_set_fin, if_pos rfl]
  · rw [getElem_set_fin, if_pos rfl]
  · simp only [getElem_set_fin, if_neg hj, and_self]

/-- Settles O45: of these reads only that of `AOUTi` without a result is unreadable. -/
theorem hostReads : Obligations.HostReads := by
  intro s rest
  refine ⟨fun hm => ?_, fun i hm => ?_, fun i hm hv => ?_, fun i hm hv => ?_⟩
  · exact step_read_readable hm rfl rfl
  · exact step_read_readable hm rfl rfl
  · exact step_read_readable hm (by simp [State.unreadable, hv]) (State.readValue_aout hv i)
  · exact ⟨_, step_read_unreadable hm hv, rfl, _, _, rfl⟩

/-- Settles O47: the read sees the register file after the write. -/
theorem addressReadsBack : Obligations.AddressReadsBack := by
  intro s rest i j v idle hm
  exact ⟨_, _, step_write_ain hm idle, step_read rfl, getElem_set_fin s.ain i j v⟩

end Sys2Proof.Machine
end

section
/-!
PROOF. The register window and the byte order of its registers (20_memory.md R51 to R53, R56).
-/

namespace Sys2Proof.Machine

/-! ### Offsets and registers -/

theorem Reg.toNat_offset_cmd : Reg.cmd.offset.toNat = 0x00 := rfl

theorem Reg.toNat_offset_status : Reg.status.offset.toNat = 0x04 := rfl

theorem Reg.toNat_offset_key (i : Fin 16) : (Reg.key i).offset.toNat = 0x10 + 4 * i.val :=
  Nat.mod_eq_of_lt (by omega)

theorem Reg.toNat_offset_ain (i : Fin 4) : (Reg.ain i).offset.toNat = 0x50 + 4 * i.val :=
  Nat.mod_eq_of_lt (by omega)

theorem Reg.toNat_offset_aout (i : Fin 4) : (Reg.aout i).offset.toNat = 0x60 + 4 * i.val :=
  Nat.mod_eq_of_lt (by omega)

theorem Reg.toNat_offset_reserved (i : Fin 6) :
    (Reg.reserved i).offset.toNat = if i.val < 2 then 0x08 + 4 * i.val else 0x68 + 4 * i.val :=
  Nat.mod_eq_of_lt (by split <;> omega)

theorem Reg.atOffset_offset (r : Reg) : Reg.atOffset r.offset = some r := by
  cases r with
  | cmd => rfl
  | status => rfl
  | key i => fin_cases i <;> rfl
  | ain i => fin_cases i <;> rfl
  | aout i => fin_cases i <;> rfl
  | reserved i => fin_cases i <;> rfl

theorem Reg.atOffset_eq_none_iff (off : BitVec 7) : Reg.atOffset off = none ↔ off.toNat % 4 ≠ 0 := by
  simp only [Reg.atOffset]
  split_ifs <;> simp [*]

/-- Each branch of the lookup answers the register whose offset is the one it tests for. -/
theorem Reg.offset_of_atOffset {off : BitVec 7} {r : Reg} (h : Reg.atOffset off = some r) : r.offset = off := by
  have hlt := off.isLt
  apply BitVec.eq_of_toNat_eq
  simp only [Reg.atOffset] at h
  split_ifs at h <;> cases h
  · rw [toNat_offset_cmd]
    omega
  · rw [toNat_offset_status]
    omega
  · rw [toNat_offset_reserved, Fin.val_ofNat, if_pos (by omega)]
    omega
  · rw [toNat_offset_key, Fin.val_ofNat]
    omega
  · rw [toNat_offset_ain, Fin.val_ofNat]
    omega
  · rw [toNat_offset_aout, Fin.val_ofNat]
    omega
  · rw [toNat_offset_reserved, Fin.val_ofNat, if_neg (by omega)]
    omega

theorem Reg.atAddress_eq (base addr : Nat) : Reg.atAddress base addr =
    if base ≤ addr ∧ addr < base + 128 then Reg.atOffset (BitVec.ofNat 7 (addr - base)) else none := by
  simp only [Reg.atAddress, Nat.lt_succ_iff]

/-- Settles O4: each register is found at its offset, and what the lookup finds has that offset. -/
theorem registerMap : Obligations.RegisterMap :=
  ⟨Reg.toNat_offset_cmd, Reg.toNat_offset_status, Reg.toNat_offset_key, Reg.toNat_offset_ain, Reg.toNat_offset_aout,
    Reg.atOffset_offset, fun _ _ => Reg.offset_of_atOffset, Reg.atOffset_eq_none_iff,
    fun base r => (Reg.atAddress_address base r).trans r.atOffset_offset, Reg.atAddress_eq⟩

/-! ### Byte order -/

/-- Settles O5: each buffer's register `i` is its word `i`, and `substr_wordAt` places the bytes of a word. -/
theorem bigEndianPacking : Obligations.BigEndianPacking := by
  refine ⟨fun k i j => ?_, fun a i j => ?_, fun s i j hv => ?_⟩
  · rw [← wordAt_keyBuffer, substr_wordAt _ _ _ j.isLt (by omega)]
  · rw [← wordAt_inputBuffer, substr_wordAt _ _ _ j.isLt (by omega)]
  · rw [State.readValue, if_pos hv, substr_wordAt _ _ _ j.isLt (by omega)]

end Sys2Proof.Machine
end

section
/-!
PROOF. The engine's turns (20_memory.md R62, 60_exceptions.md R182) and what they do not read: the operand registers
(20_memory.md R67).
-/

namespace Sys2Proof.Machine

/-! ### One turn -/

theorem engineStep_idle {s : State} (h : s.status.busy = false) : engineStep s = .next s := by
  simp [engineStep, h]

theorem engineStep_outOfPhase {s : State} (h : s.status.busy = true) (hp : s.phase = .idle) :
    engineStep s = .fault .engineOutOfPhase := by
  simp [engineStep, h, hp]

/-- Settles O11: a step by the next move, then a turn by `BUSY` and the phase. -/
theorem engineTurnsAreServed : Obligations.EngineTurnsAreServed :=
  ⟨step_nil, fun s => step_cons s .engine, fun _ => engineStep_idle,
    fun _ busy => ⟨engineStep_runKey busy, engineStep_runV4 busy, engineStep_runV6 busy, engineStep_outOfPhase busy⟩⟩

/-! ### Turns with other operand registers -/

/-- The operand registers `KEYi` and `AINi` with their written bits. -/
structure Operands where
  key : Vector Word 16
  ain : Vector Word 4
  keyWritten : Vector Bool 16
  ainWritten : Vector Bool 4

/-- The state with other operand registers. -/
def State.withOperands (s : State) (o : Operands) : State :=
  { s with key := o.key, ain := o.ain, keyWritten := o.keyWritten, ainWritten := o.ainWritten }

theorem State.keyStep_withOperands (s : State) (o : Operands) :
    (s.withOperands o).keyStep = s.keyStep.withOperands o := rfl

theorem State.stepV4_withOperands (s : State) (o : Operands) :
    (s.withOperands o).stepV4 = s.stepV4.withOperands o := by
  rcases Nat.lt_or_ge s.pos.toNat 31 with h | h
  · rw [stepV4_before s h, stepV4_before (s.withOperands o) h]
    rfl
  · rw [stepV4_last s h, stepV4_last (s.withOperands o) h]
    rfl

theorem State.stepV6_withOperands (s : State) (o : Operands) :
    (s.withOperands o).stepV6 = s.stepV6.withOperands o := by
  rcases Nat.lt_or_ge s.pos.toNat 127 with h | h
  · rw [stepV6_before s h, stepV6_before (s.withOperands o) h]
    rfl
  · have hlast : s.pos.toNat = 127 := by omega
    rw [stepV6_last s hlast, stepV6_last (s.withOperands o) hlast]
    rfl

theorem engineStep_withOperands {s t : State} (o : Operands) (h : engineStep s = .next t) :
    engineStep (s.withOperands o) = .next (t.withOperands o) := by
  cases hb : s.status.busy with
  | false =>
    rw [engineStep_idle hb] at h
    cases h
    exact engineStep_idle hb
  | true =>
    cases hp : s.phase with
    | idle =>
      rw [engineStep_outOfPhase hb hp] at h
      cases h
    | runKey =>
      rw [engineStep_runKey hb hp] at h
      cases h
      rw [← State.keyStep_withOperands]
      exact engineStep_runKey hb hp
    | runV4 =>
      rw [engineStep_runV4 hb hp] at h
      cases h
      rw [← State.stepV4_withOperands]
      exact engineStep_runV4 hb hp
    | runV6 =>
      rw [engineStep_runV6 hb hp] at h
      cases h
      rw [← State.stepV6_withOperands]
      exact engineStep_runV6 hb hp

theorem engineRun_withOperands (n : Nat) {s t : State} (o : Operands) (h : engineRun n s = .next t) :
    engineRun n (s.withOperands o) = .next (t.withOperands o) := by
  induction n generalizing s with
  | zero =>
    cases h
    rfl
  | succ n ih =>
    rw [engineRun] at h ⊢
    cases hs : engineStep s with
    | next u =>
      rw [hs] at h
      rw [engineStep_withOperands o hs]
      exact ih h
    | fault f =>
      rw [hs] at h
      cases h
    | refused r =>
      rw [hs] at h
      cases h

/-- Settles O49: the operand registers can be replaced before a run of engine turns or after it. -/
theorem snapshotsProtectTheCommand : Obligations.SnapshotsProtectTheCommand :=
  fun n _ _ key ain kw aw => engineRun_withOperands n ⟨key, ain, kw, aw⟩

end Sys2Proof.Machine
end

section
/-!
PROOF. The host accesses that have no effect (20_memory.md R58).
-/

namespace Sys2Proof.Machine

/-- Settles O44: the ignored writes are no operation, and a read of a write-only or reserved register is readable. -/
theorem ignoredAccesses : Obligations.IgnoredAccesses := by
  intro s r rest
  refine ⟨?_, ?_⟩
  · rintro v (rfl | ⟨i, rfl⟩ | ⟨i, rfl⟩) hm <;> exact step_cons s _ rest hm
  · rintro (rfl | ⟨i, rfl⟩ | ⟨i, rfl⟩) hm <;> exact step_read_readable hm rfl rfl

end Sys2Proof.Machine
end

section
/-!
PROOF. The command word (30_encoding.md R80 to R85, R89) and the numbers of the error codes (R84). `decode_eq_ok_iff`
says once when the decoder accepts a word, by the values of the fields: the converse of `Laws.RoundTrip` and the
answer to every word follow from it.
-/

namespace Sys2Proof

/-! ### The fields as numbers -/

theorem toNat_opField (w : Word) : (opField w).toNat = w.toNat % 16 := by
  simp [opField]

theorem toNat_res0Field (w : Word) : (res0Field w).toNat = w.toNat / 16 % 16 := by
  simp [res0Field, Nat.shiftRight_eq_div_pow]

theorem toNat_lenField (w : Word) : (lenField w).toNat = w.toNat / 256 % 256 := by
  simp [lenField, Nat.shiftRight_eq_div_pow]

theorem toNat_res1Field (w : Word) : (res1Field w).toNat = w.toNat / 65536 := by
  have hw := w.isLt
  simp only [res1Field, BitVec.extractLsb'_toNat, Nat.shiftRight_eq_div_pow]
  omega

theorem toNat_encode (i : Instr) : (encode i).toNat = i.len % 256 * 256 + i.opcode.toNat := by
  rw [encode, toNat_joinAs rfl, toNat_joinAs rfl, toNat_joinAs rfl]
  simp

/-! ### When the decoder accepts a word -/

theorem commandOf_opcode_len (i : Instr) : commandOf i.opcode i.len = some i := by
  cases i <;> rfl

/-- An `OP` selects only the command that it is the opcode of (R81). -/
theorem commandOf_eq_some_iff {op : BitVec 4} {len : Nat} {i : Instr} :
    commandOf op len = some i ↔ i.opcode = op ∧ i.len = len := by
  constructor
  · intro h
    unfold commandOf at h
    split at h <;> cases h
    all_goals exact ⟨(BitVec.eq_of_toNat_eq ‹_›).symm, rfl⟩
  · rintro ⟨rfl, rfl⟩
    exact commandOf_opcode_len i

theorem decode_eq_ok_iff_fields {w : Word} {i : Instr} :
    decode w = .ok i ↔
      res0Field w = 0 ∧ res1Field w = 0 ∧ commandOf (opField w) (lenField w).toNat = some i := by
  unfold decode
  split_ifs with h0 h1
  · simp [h0]
  · simp [h1]
  · rw [not_not] at h0 h1
    cases commandOf (opField w) (lenField w).toNat <;> simp [h0, h1]

/-- The accepted words and their commands, by the values of the fields. -/
theorem decode_eq_ok_iff {w : Word} {i : Instr} :
    decode w = .ok i ↔
      w.toNat / 16 % 16 = 0 ∧ w.toNat / 65536 = 0 ∧ i.opcode.toNat = w.toNat % 16 ∧
        i.len = w.toNat / 256 % 256 := by
  simp only [decode_eq_ok_iff_fields, commandOf_eq_some_iff, ← BitVec.toNat_inj, toNat_res0Field, toNat_res1Field,
    toNat_opField, toNat_lenField, BitVec.ofNat_eq_ofNat, BitVec.toNat_zero]

/-! ### The round trip -/

/-- Settles O6: the round trip of each of the four commands. -/
theorem decodeEncodeAgree : Obligations.DecodeEncodeAgree := by
  intro i
  cases i with
  | keysetup len => exact Laws.RoundTrip.keysetup len
  | anonV4 len => exact Laws.RoundTrip.anonV4 len
  | anonV6 len => exact Laws.RoundTrip.anonV6 len
  | anon len => exact Laws.RoundTrip.anon len

/-- Settles O7: in an accepted word `LEN` and `OP` are the command's and the other fields are zero. -/
theorem encodeDecodeAgree : Obligations.EncodeDecodeAgree := by
  intro w i h
  obtain ⟨hres0, hres1, hop, hlen⟩ := decode_eq_ok_iff.mp h
  constructor
  · simp only [Instr.wellFormed, decide_eq_true_eq]
    omega
  · apply BitVec.eq_of_toNat_eq
    rw [toNat_encode]
    omega

/-! ### Every word -/

theorem Instr.opcode_range (i : Instr) : 1 ≤ i.opcode.toNat ∧ i.opcode.toNat ≤ 4 := by
  cases i <;> simp [Instr.opcode]

/-- Settles O8: an accepted word has the fields of a command, and a word with them is accepted. -/
theorem decodeIsTotal : Obligations.DecodeIsTotal := by
  intro w op res0 len res1
  refine ⟨fun hbad => ?_, fun h0 h1 hop => ?_, fun h0 h1 hop => ?_, fun h0 h1 hop => ?_, fun h0 h1 hop => ?_⟩
  · cases hd : decode w with
    | error e => exact ⟨e, rfl⟩
    | ok i =>
      obtain ⟨hres0, hres1, hcode, -⟩ := decode_eq_ok_iff.mp hd
      have hrange := i.opcode_range
      omega
  all_goals exact decode_eq_ok_iff.mpr ⟨h0, h1, hop.symm, rfl⟩

/-- Settles O9: the six words of R89, each by evaluation of the encoder and the decoder on it. -/
theorem passingWords : Obligations.PassingWords :=
  ⟨rfl, rfl, rfl, rfl, rfl, rfl, rfl, rfl, rfl, rfl, rfl, rfl⟩

end Sys2Proof

namespace Sys2Proof.Machine

/-! ### Error codes -/

theorem ErrCode.toNat_code_le (e : ErrCode) : e.code.toNat ≤ 5 := by
  cases e <;> decide

/-- Settles O3: the codes as listed, and the largest of them is 5. -/
theorem errorCodeNumbers : Obligations.ErrorCodeNumbers :=
  ⟨rfl, rfl, rfl, rfl, rfl, rfl, ErrCode.toNat_code_le⟩

end Sys2Proof.Machine
end

section
/-!
PROOF. Key setup (40_key_setup.md R100 to R110): the engine step of `RUN_KEY` as a whole state, KEYSETUP of 64 bytes
from acceptance to the derived context, and what a failed KEYSETUP leaves to the commands after it.
-/

namespace Sys2Proof.Machine

/-! ### The engine step of `RUN_KEY` -/

/-- `PP` is a part of the enciphered half, so no bit of it comes from the kept half of the pad
(40_key_setup.md R105). -/
theorem State.substr_derivedPad (s : State) :
    substr 32 s.derivedPad 0 = substr 32 (s.oracle (substr 128 s.pad 0)) 0 :=
  substr_joinAs_left rfl (by decide) _ _

/-- Settles O20: the turn is `keyStep`, and `PP` comes from the enciphered half. -/
theorem runKeyEngineStep : Obligations.RunKeyEngineStep := by
  intro s busy phase enc
  have hpp : substr 32 s.derivedPad 0 = enc.extractLsb' 96 32 := s.substr_derivedPad
  rw [engineStep_runKey busy phase, State.keyStep, hpp]
  rfl

/-! ### Acceptance while idle -/

section Acceptance

variable {s : State} (idle : s.status.busy = false)
include idle

theorem exec_keysetup_of_idle (len : Nat) :
    exec (.keysetup len) s = .next ((s.acceptKey 0x1#4 len).beginKey len) :=
  ((execKeysetup_cases len s).resolve_left (by simp [idle])).2

/-- An accepted key is split and waits for its oracle call (40_key_setup.md R101, R108). -/
theorem exec_keysetup_of_keyOk (ok : bcKeyOk s.params (substr 256 (keyBuffer s.key) 0) = true) :
    exec (.keysetup 64) s = .next ((s.acceptKey 0x1#4 64).markFault s.keyUnwritten).splitKey := by
  rw [exec_keysetup_of_idle idle]
  rcases (s.acceptKey 0x1#4 64).beginKey_cases 64 with ⟨hlen, _⟩ | ⟨_, hbad, _⟩ | ⟨_, _, hsplit⟩
  · exact absurd rfl hlen
  · exact absurd (hbad.symm.trans ok) nofun
  · rw [hsplit]
    rfl

/-- Without a context every anonymize command ends at its context check (60_exceptions.md R189). -/
theorem exec_of_noContext (ctx : s.status.ctxValid = false) {i : Instr} (hi : ∀ len, i ≠ .keysetup len) :
    exec i s = .next ((s.acceptAddress i.opcode i.len).raiseError .noContext) := by
  have stops (op : BitVec 4) (len : Nat) (body : State → State) :
      (s.acceptAddress op len).withContext body = (s.acceptAddress op len).raiseError .noContext :=
    ((State.withContext_cases _ body).resolve_left (by simp [ctx])).2
  cases i with
  | keysetup len => exact absurd rfl (hi len)
  | anonV4 len => rw [exec, ((execAnonV4_cases len s).resolve_left (by simp [idle])).2, stops]; rfl
  | anonV6 len => rw [exec, ((execAnonV6_cases len s).resolve_left (by simp [idle])).2, stops]; rfl
  | anon len => rw [exec, ((execAnon_cases len s).resolve_left (by simp [idle])).2, stops]; rfl

end Acceptance

/-! ### KEYSETUP -/

/-- The half of the pad that is enciphered, as a part of the key (40_key_setup.md R101, R104). -/
theorem State.seed_splitKey (s : State) :
    s.splitKey.pad.extractLsb' 128 128 = s.cur.keySnap.extractLsb' 128 128 :=
  BitVec.extractLsb'_extractLsb'_of_le (by decide)

/-- The half of the pad that is kept, as a part of the key (40_key_setup.md R101, R107). -/
theorem State.rest_splitKey (s : State) :
    s.splitKey.pad.extractLsb' 0 128 = s.cur.keySnap.extractLsb' 0 128 :=
  BitVec.extractLsb'_extractLsb'_of_le (by decide)

/-- Settles O15: the split key waits in `RUN_KEY`, and the turn of O20 derives the context from it. -/
theorem keysetupDerivesContext : Obligations.KeysetupDerivesContext := by
  intro s K enc idle ok
  have turn := runKeyEngineStep ((s.acceptKey 0x1#4 64).markFault s.keyUnwritten).splitKey rfl rfl
  simp only [State.seed_splitKey, State.rest_splitKey] at turn
  have running : statusWord (Status.running false) = 1 := by decide
  exact ⟨_, exec_keysetup_of_keyOk idle ok, rfl, running, turn⟩

/-- Settles O19: the context of O15 is a function of the key and the cipher. -/
theorem keyDerivationIsDeterministic : Obligations.KeyDerivationIsDeterministic := by
  intro s₁ s₂ idle₁ idle₂ hparams hwords ok₁
  have hkey : s₁.key = s₂.key := Vector.ext fun i hi => hwords ⟨i, hi⟩
  have ok₂ : bcKeyOk s₂.params ((keyBuffer s₂.key).extractLsb' 256 256) = true := hparams ▸ hkey ▸ ok₁
  obtain ⟨t₁, accepted₁, -, -, turn₁⟩ := keysetupDerivesContext s₁ idle₁ ok₁
  obtain ⟨t₂, accepted₂, -, -, turn₂⟩ := keysetupDerivesContext s₂ idle₂ ok₂
  refine ⟨t₁, t₂, _, _, accepted₁, (engineRun_snoc rfl).trans turn₁, accepted₂, (engineRun_snoc rfl).trans turn₂,
    rfl, rfl, rfl, rfl, ?_, ?_, ?_⟩ <;> simp only [hparams, hkey]

/-- KEYSETUP leaves no context behind its acceptance, and where it leaves an error it is over
(40_key_setup.md R109, 60_exceptions.md R185). -/
theorem State.status_beginKey_acceptKey (s : State) (op : BitVec 4) (len : Nat) :
    ((s.acceptKey op len).beginKey len).status.ctxValid = false ∧
      (((s.acceptKey op len).beginKey len).status.err ≠ .none →
        ((s.acceptKey op len).beginKey len).status.busy = false) := by
  rcases (s.acceptKey op len).beginKey_cases len with ⟨_, h⟩ | ⟨_, _, h⟩ | ⟨_, _, h⟩ <;> rw [h]
  · exact ⟨rfl, fun _ => rfl⟩
  · exact ⟨rfl, fun _ => rfl⟩
  · exact ⟨rfl, fun herr => absurd rfl herr⟩

/-- Settles O18: a failed KEYSETUP is over and left no context, so the next command ends at its context check. -/
theorem failedKeysetupLeavesNoContext : Obligations.FailedKeysetupLeavesNoContext := by
  intro s len idle
  obtain ⟨ctx, ended⟩ := s.status_beginKey_acceptKey 0x1#4 len
  refine ⟨_, exec_keysetup_of_idle idle len, ctx, fun failed n => ⟨?_, ?_, ?_⟩⟩
  all_goals exact ⟨_, exec_of_noContext (ended failed) ctx nofun, rfl⟩

end Sys2Proof.Machine
end

section
/-!
PROOF. The OR without clear, for a working register of any width (41_ipv4.md R124, 42_ipv6.md R143): what the bits that
a loop merges add up to, and when a map that only sets bits is injective (41_ipv4.md R130).
-/

namespace Sys2Proof.Machine

/-! ### Bits merged at the first positions -/

/-- The `w`-bit word with `bits p` at each MSB-position `p` below `n` and zeros after them, as the sum of 41_ipv4.md
R128. -/
def placedBits (w : Nat) (bits : Nat → BitVec 1) (n : Nat) : BitVec w :=
  BitVec.ofNat w (∑ p ∈ Finset.range n, (bits p).toNat * 2 ^ (w - 1 - p))

theorem mergeBit_or {w : Nat} (a x : BitVec w) (bit : BitVec 1) (p : Nat) :
    mergeBit (a ||| x) bit p = a ||| mergeBit x bit p :=
  BitVec.or_assoc ..

/-- Everything placed before position `n` stands at LSB index `w - n` or above. -/
theorem two_pow_dvd_sum_bits (w : Nat) (bits : Nat → BitVec 1) (n : Nat) :
    2 ^ (w - n) ∣ ∑ p ∈ Finset.range n, (bits p).toNat * 2 ^ (w - 1 - p) := by
  refine Finset.dvd_sum fun p hp => Dvd.dvd.mul_left (Nat.pow_dvd_pow 2 ?_) _
  have hlt := Finset.mem_range.mp hp
  omega

theorem ofNat_toNat_mul_two_pow (w k : Nat) (bit : BitVec 1) :
    BitVec.ofNat w (bit.toNat * 2 ^ k) = bit.setWidth w <<< k := by
  apply BitVec.eq_of_toNat_eq
  simp [Nat.shiftLeft_eq]

/-- Merging the next bit adds it to the sum: it stands below the others, so there is no carry. -/
theorem placedBits_succ {w n : Nat} (hn : n < w) (bits : Nat → BitVec 1) :
    placedBits w bits (n + 1) = mergeBit (placedBits w bits n) (bits n) n := by
  obtain ⟨q, hq⟩ := two_pow_dvd_sum_bits w bits n
  have hpow : 2 ^ (w - n) = 2 * 2 ^ (w - 1 - n) := by
    rw [← Nat.pow_succ', show (w - 1 - n).succ = w - n by omega]
  have hbelow : (bits n).toNat * 2 ^ (w - 1 - n) < 2 ^ (w - n) :=
    hpow ▸ Nat.mul_lt_mul_of_pos_right (bits n).isLt (Nat.two_pow_pos _)
  rw [placedBits, Finset.sum_range_succ, hq, Nat.two_pow_add_eq_or_of_lt hbelow, BitVec.ofNat_or, ← hq,
    ofNat_toNat_mul_two_pow]
  rfl

/-- Shifting the first `n` positions out leaves nothing of the bits placed there. -/
theorem placedBits_shiftLeft {w n : Nat} (hn : n ≤ w) (bits : Nat → BitVec 1) : placedBits w bits n <<< n = 0 := by
  obtain ⟨q, hq⟩ := two_pow_dvd_sum_bits w bits n
  have hval : 2 ^ (w - n) * q * 2 ^ n = 2 ^ w * q := by
    rw [Nat.mul_right_comm, ← Nat.pow_add, Nat.sub_add_cancel hn]
  rw [placedBits, hq]
  apply BitVec.eq_of_toNat_eq
  simp [Nat.shiftLeft_eq, hval]

/-! ### Maps that only set bits -/

theorem or_and_left_self {w : Nat} (a x : BitVec w) : (a ||| x) &&& a = a := by
  apply BitVec.eq_of_getLsbD_eq
  intro i _
  cases h : a.getLsbD i <;> simp [h]

/-- R130's argument, by descending value instead of popcount: if `f` moved `a`, it would move it up, to a fixed point,
and so take one value at two places. -/
theorem eq_self_of_injective_of_contains {w : Nat} {f : BitVec w → BitVec w} (hf : Function.Injective f)
    (contains : ∀ a, f a &&& a = a) (a : BitVec w) : f a = a := by
  by_contra moved
  have hle : a.toNat ≤ (f a).toNat :=
    calc a.toNat = (f a).toNat &&& a.toNat := by rw [← BitVec.toNat_and, contains]
      _ ≤ (f a).toNat := Nat.and_le_left
  have hlt : a.toNat < (f a).toNat := lt_of_le_of_ne hle fun h => moved (BitVec.eq_of_toNat_eq h).symm
  have fixed : f (f a) = f a := eq_self_of_injective_of_contains hf contains (f a)
  exact moved (hf fixed)
termination_by 2 ^ w - a.toNat

end Sys2Proof.Machine
end

section
/-!
PROOF. The laws of the IPv4 loop (41_ipv4.md R127 to R130), for every oracle.
-/

namespace Sys2Proof.Machine

/-! ### The block -/

/-- Only the bits that stay in the window reach the block (41_ipv4.md R122). -/
theorem v4Block_congr {pp r r' : Word} {p : Nat} (h : r <<< p = r' <<< p) : v4Block pp r p = v4Block pp r' p := by
  rw [v4Block, v4Block, h]

theorem v4Block_or_placedBits (pp a : Word) (bits : Nat → BitVec 1) {p : Nat} (hp : p ≤ 32) :
    v4Block pp (a ||| placedBits 32 bits p) p = v4Block pp a p := by
  apply v4Block_congr
  rw [BitVec.shiftLeft_or_distrib, placedBits_shiftLeft hp]
  exact BitVec.or_zero

theorem substr_v4Block_padByte (pp r : Word) (p : Nat) : substr 8 (v4Block pp r p) 0 = pp.extractLsb' 24 8 := by
  rw [v4Block, substr_joinAs_left rfl (by decide), substr_joinAs_left rfl (by decide), substr_full]
  rfl

theorem substr_v4Block_window (pp r : Word) (p : Nat) :
    substr 32 (v4Block pp r p) 1 = r <<< p ||| pp >>> (32 - p) := by
  rw [v4Block, substr_joinAs_left rfl (by decide),
    substr_joinAs_right (b := 1) rfl rfl (le_refl 1) (by decide), substr_full]

theorem substr_v4Block_zeros (pp r : Word) (p : Nat) : substr 88 (v4Block pp r p) 5 = 0#88 := by
  rw [v4Block, substr_joinAs_right (b := 5) rfl rfl (le_refl 5) (by decide), substr_full]

/-- The window by its bits: the address above, the top of `PP` below (41_ipv4.md R127). -/
theorem getLsbD_v4Window (pp r : Word) {p j : Nat} (hp : p ≤ 32) (hj : j < 32) :
    (r <<< p ||| pp >>> (32 - p)).getLsbD j = if p ≤ j then r.getLsbD (j - p) else pp.getLsbD (32 - p + j) := by
  rw [BitVec.getLsbD_or, BitVec.getLsbD_shiftLeft, BitVec.getLsbD_ushiftRight]
  by_cases h : p ≤ j
  · have hpp : pp.getLsbD (32 - p + j) = false := BitVec.getLsbD_of_ge _ _ (by omega)
    simp [h, hj, hpp]
  · simp [h, Nat.not_le.mp h]

/-! ### The loop -/

/-- The loop after `n` iterations is an OR of the address with the bits of the blocks of the original address: each
block is built after the earlier bits have been shifted out. -/
theorem v4Loop_eq_or (bc : Block → Block) (pp a : Word) {n : Nat} (hn : n ≤ 32) :
    v4Loop bc pp a n = a ||| placedBits 32 (fun p => topBit (bc (v4Block pp a p))) n := by
  induction n with
  | zero => exact BitVec.or_zero.symm
  | succ n ih =>
    rw [v4Loop, v4Iteration, ih (by omega), v4Block_or_placedBits pp a _ (by omega), placedBits_succ hn, mergeBit_or]

theorem v4Block_v4Loop (bc : Block → Block) (pp a : Word) {p : Nat} (hp : p ≤ 32) :
    v4Block pp (v4Loop bc pp a p) p = v4Block pp a p := by
  rw [v4Loop_eq_or bc pp a hp, v4Block_or_placedBits pp a _ hp]

/-- Settles O32: the block is that of the original address, and its parts are as built. -/
theorem v4WindowUsesOriginalBits : Obligations.V4WindowUsesOriginalBits := by
  intro bc pp a p hp
  rw [v4Block_v4Loop bc pp a (by omega), substr_v4Block_window]
  exact ⟨rfl, substr_v4Block_padByte pp a p, substr_v4Block_zeros pp a p,
    fun j hj => getLsbD_v4Window pp a (by omega) hj⟩

/-- Settles O33: the closed form of the loop after all 32 iterations. -/
theorem v4LoopIsOrOfOracleBits : Obligations.V4LoopIsOrOfOracleBits :=
  fun bc pp a => v4Loop_eq_or bc pp a (le_refl 32)

/-- Settles O34: each law is one of the OR in O33. -/
theorem v4ResultContainsInput : Obligations.V4ResultContainsInput := by
  intro bc pp
  simp only [v4LoopIsOrOfOracleBits bc pp]
  refine ⟨fun a => ?_, ?_, ?_⟩
  · exact or_and_left_self a _
  · exact BitVec.allOnes_or
  · exact BitVec.zero_or

/-- Settles O35: by O34 the map only sets bits. -/
theorem v4InjectiveOnlyIfIdentity : Obligations.V4InjectiveOnlyIfIdentity :=
  fun bc pp hf => eq_self_of_injective_of_contains hf (v4ResultContainsInput bc pp).1

end Sys2Proof.Machine
end

section
/-!
PROOF. ANON_V4 in the machine (41_ipv4.md R120 to R126, R131): its acceptance step on an operand, the engine step of
`RUN_V4`, and the 32 steps together.
-/

namespace Sys2Proof

/-- Strings concatenate in either order (00_scope.md R10). -/
theorem joinAs_assoc {n m l nm ml k : Nat} (hnm : n + m = nm) (hml : m + l = ml) (hk : n + ml = k) (x : BitVec n)
    (y : BitVec m) (z : BitVec l) : joinAs k (joinAs nm x y) z = joinAs k x (joinAs ml y z) := by
  apply BitVec.eq_of_toNat_eq
  rw [toNat_joinAs (by omega), toNat_joinAs hnm, toNat_joinAs hk, toNat_joinAs hml, ← hml, Nat.pow_add]
  ring

end Sys2Proof

namespace Sys2Proof.Machine

/-! ### The operand and the result as words -/

/-- The first three words of a buffer, then the last. -/
theorem joinWords_eq_init (a b c d : Word) : joinWords a b c d = joinAs 128 (joinAs 96 (joinAs 64 a b) c) d :=
  (joinAs_assoc (by rfl) (by rfl) (by rfl) ..).symm

/-- The first word of a buffer, then the other three. -/
theorem joinWords_eq_tail (a b c d : Word) : joinWords a b c d = joinAs 128 a (joinAs 96 b (joinAs 64 c d)) :=
  joinAs_assoc (by rfl) (by rfl) (by rfl) ..

/-- `OB` of a result, by the output registers (41_ipv4.md R126). -/
theorem v4Output_eq_joinWords (r : Word) (embed : Bool) :
    v4Output r embed = if embed then joinWords 0 0 0x0000FFFF#32 r else joinWords r 0 0 0 := by
  have hff : joinAs 96 (joinAs 88 0#80 0xFF#8) 0xFF#8 = joinAs 96 (joinAs 64 0#32 0#32) 0x0000FFFF#32 := by decide
  have hzeros : 0#96 = joinAs 96 0#32 (joinAs 64 0#32 0#32) := by decide
  rw [v4Output, joinWords_eq_init, joinWords_eq_tail, hff, hzeros]
  rfl

/-- The form of 43_dispatch.md R162, by its words. -/
theorem mapped_joinWords (d : Word) : mapped (joinWords 0 0 0x0000FFFF#32 d) = true := by
  have hinit {w a : Nat} (h : 8 * a + w ≤ 96) : substr w (joinWords 0 0 0x0000FFFF#32 d) a =
      substr w (joinAs 96 (joinAs 64 (0 : Word) (0 : Word)) 0x0000FFFF#32) a := by
    rw [joinWords_eq_init, substr_joinAs_left rfl h]
  rw [mapped, hinit (by decide), hinit (by decide), hinit (by decide)]
  decide

theorem v4Operand_four (ain : Vector Word 4) : v4Operand 4 (inputBuffer ain) = some (ain[0], false) := by
  have hword : substr 32 (inputBuffer ain) 0 = ain[0] := wordAt_inputBuffer ain 0
  rw [v4Operand, if_pos rfl, hword]

theorem v4Operand_sixteen {ain : Vector Word 4} (h : mapped (inputBuffer ain) = true) :
    v4Operand 16 (inputBuffer ain) = some (ain[3], true) := by
  have hword : substr 32 (inputBuffer ain) 12 = ain[3] := wordAt_inputBuffer ain 3
  rw [v4Operand, if_neg (by decide), if_pos ⟨rfl, h⟩, hword]

/-- "Output byte-width always equals input byte-width" (41_ipv4.md R126). -/
theorem v4OutLen_of_v4Operand {len : Nat} {b : Block} {a : Word} {embed : Bool}
    (h : v4Operand len b = some (a, embed)) : v4OutLen embed = BitVec.ofNat 8 len := by
  unfold v4Operand at h
  split_ifs at h with h4 h16 <;> cases h
  · rw [h4]
    rfl
  · rw [h16.1]
    rfl

/-! ### Acceptance -/

/-- ANON_V4 on an operand, idle and with a context, starts the loop (41_ipv4.md R120, R121). -/
theorem exec_anonV4_of_operand {s : State} {len : Nat} {a : Word} {embed : Bool} (idle : s.status.busy = false)
    (ctx : s.status.ctxValid = true) (operand : v4Operand len (inputBuffer s.ain) = some (a, embed)) :
    exec (.anonV4 len) s =
      .next (((s.acceptAddress 0x2#4 len).markFault (s.addressUnwritten len)).startV4 a embed) := by
  rw [exec, ((execAnonV4_cases len s).resolve_left (by simp [idle])).2,
    ((State.withContext_cases _ (State.beginV4 len)).resolve_right (by simp [ctx])).2]
  rcases (s.acceptAddress 0x2#4 len).beginV4_cases len with ⟨w, e, hop, h⟩ | ⟨hop, _⟩
  · cases hop.symm.trans operand
    rw [h]
    rfl
  · exact absurd (hop.symm.trans operand) nofun

/-! ### The engine steps -/

theorem topBit_eq_extractLsb' (o : Block) : topBit o = o.extractLsb' 127 1 := by
  apply BitVec.eq_of_getLsbD_eq
  intro i hi
  obtain rfl : i = 0 := by omega
  simp [topBit]

/-- Settles O30: before position 31 the step is the iteration with the next block, from it on the delivery. -/
theorem runV4EngineStep : Obligations.RunV4EngineStep := by
  intro s busy phase o bit r
  have hbit : topBit (s.oracle s.blk) = bit := topBit_eq_extractLsb' _
  have hr : low32 s.iterateV4.wr = r := by
    rw [s.iterateV4_writes.1, low32_withLow32, hbit]
    rfl
  rw [engineStep_runV4 busy phase]
  refine ⟨fun before => ?_, fun last => ⟨s.stepV4, rfl, ?_⟩⟩
  · rw [stepV4_before s before, hr, State.iterateV4]
    simp only [hbit]
    rfl
  · rw [stepV4_last s last, hr, v4Output_eq_joinWords]
    simp [v4OutLen]

/-- Before its last turn the loop keeps `STATUS` (20_memory.md R59). -/
theorem engineRun_startV4_before {s : State} (busy : s.status.busy = true) (a : Word) (embed : Bool) {n : Nat}
    (hn : n < 32) : ∃ v, engineRun n (s.startV4 a embed) = .next v ∧ v.status = s.status := by
  obtain ⟨v, hrun, -, _, _, _, rfl⟩ :=
    engineRun_v4 (s.startV4 a embed) a busy rfl rfl (low32_setWidth a) rfl n (by omega)
  exact ⟨_, hrun, rfl⟩

/-- The 32 turns of a started loop deliver the image. What they leave in the datapath is released, so the state is
that of a delivery right at the start. -/
theorem engineRun_startV4 {s : State} (busy : s.status.busy = true) (a : Word) (embed : Bool) :
    engineRun 32 (s.startV4 a embed) = .next ((s.startV4 a embed).deliver
      (v4Output (v4Image s.contextOracle s.pp a) embed) (v4OutLen embed)) := by
  obtain ⟨v, _, _, _, hrun, rfl⟩ :=
    engineRun_v4_all (s.startV4 a embed) a busy rfl rfl (low32_setWidth a) rfl
  exact hrun

/-! ### The command -/

/-- Settles O24: each passing operand starts the loop, whose 32 turns deliver the image. -/
theorem anonV4Completes : Obligations.AnonV4Completes := by
  intro s len a embed idle ctx passing
  have operand : v4Operand len (inputBuffer s.ain) = some (a, embed) := by
    rcases passing with ⟨rfl, rfl, rfl⟩ | ⟨rfl, h0, h1, h2, rfl, rfl⟩
    · exact v4Operand_four s.ain
    · refine v4Operand_sixteen ?_
      rw [inputBuffer, h0, h1, h2, mapped_joinWords]
  refine ⟨_, _, exec_anonV4_of_operand idle ctx operand, rfl, fun n hn => ?_, engineRun_startV4 rfl a embed, ?_⟩
  · obtain ⟨v, hrun, hst⟩ := engineRun_startV4_before
      (s := (s.acceptAddress 0x2#4 len).markFault (s.addressUnwritten len)) rfl a embed hn
    exact ⟨v, hrun, congrArg Status.busy hst, congrArg Status.outValid hst⟩
  · rw [v4OutLen_of_v4Operand operand, v4Output_eq_joinWords]
    simp [ctx, State.contextOracle]

/-- Settles O29: equal input words are the same operand, and O24's result is a function of it and of the context. -/
theorem anonV4IsDeterministic : Obligations.AnonV4IsDeterministic := by
  intro s₁ s₂ len idle₁ idle₂ ctx₁ ctx₂ hparams hck hpp hinput
  obtain ⟨a, embed, operand₁, operand₂⟩ : ∃ a embed, v4Operand len (inputBuffer s₁.ain) = some (a, embed) ∧
      v4Operand len (inputBuffer s₂.ain) = some (a, embed) := by
    rcases hinput with ⟨rfl, hain⟩ | ⟨rfl, hain, hmapped⟩
    · exact ⟨_, _, v4Operand_four s₁.ain, hain ▸ v4Operand_four s₂.ain⟩
    · exact ⟨_, _, v4Operand_sixteen hmapped, hain ▸ v4Operand_sixteen hmapped⟩
  refine ⟨_, _, _, _, exec_anonV4_of_operand idle₁ ctx₁ operand₁, engineRun_startV4 rfl a embed,
    exec_anonV4_of_operand idle₂ ctx₂ operand₂, engineRun_startV4 rfl a embed, rfl, ?_, rfl⟩
  simp [State.contextOracle, hparams, hck, hpp]

end Sys2Proof.Machine
end

section
/-!
PROOF. The laws of the IPv6 loop (42_ipv6.md R147 to R149), for every oracle.
-/

namespace Sys2Proof.Machine

/-! ### The window -/

/-- Bytes 8 to 15 of the block: the low half `x` of the working value above, the top of `PP` below (42_ipv6.md R141).
`v6Block_eq` says that the block holds it. -/
def v6Window (pp : Word) (x : BitVec 64) (p : Nat) : BitVec 64 :=
  x <<< p ||| pp.setWidth 64 >>> (128 - p)

/-- Up to position 96 all of `PP` is shifted out. -/
theorem v6Window_of_le (pp : Word) (x : BitVec 64) {p : Nat} (hp : p ≤ 96) : v6Window pp x p = x <<< p := by
  have hpp : pp.setWidth 64 >>> (128 - p) = 0 := by
    rw [← BitVec.setWidth_ushiftRight (by decide), BitVec.ushiftRight_eq_zero (by omega)]
    rfl
  rw [v6Window, hpp]
  exact BitVec.or_zero

/-- From position 64 on all of the address is shifted out. -/
theorem v6Window_of_ge (pp : Word) (x : BitVec 64) {p : Nat} (hp : 64 ≤ p) :
    v6Window pp x p = pp.setWidth 64 >>> (128 - p) := by
  rw [v6Window, BitVec.shiftLeft_eq_zero hp]
  exact BitVec.zero_or

/-- At the 33 positions between, nothing is left of either. -/
theorem v6Window_of_mid (pp : Word) (x : BitVec 64) {p : Nat} (hlo : 64 ≤ p) (hhi : p ≤ 96) : v6Window pp x p = 0 := by
  rw [v6Window_of_le pp x hhi, BitVec.shiftLeft_eq_zero hlo]
  rfl

/-! ### The block -/

theorem v6Block_eq (pp : Word) (r : Block) (p : Nat) :
    v6Block pp r p = joinAs 128 (joinAs 64 (pp.extractLsb' 24 8) 0#56) (v6Window pp (r.setWidth 64) p) := by
  have hr : (r <<< p).setWidth 64 = r.setWidth 64 <<< p := BitVec.setWidth_shiftLeft_of_le (by decide)
  have hpp : (pp.setWidth 128 >>> (128 - p)).setWidth 64 = pp.setWidth 64 >>> (128 - p) := by
    rw [← BitVec.setWidth_ushiftRight (by decide), BitVec.setWidth_setWidth_of_le _ (by decide),
      BitVec.setWidth_ushiftRight (by decide)]
  rw [v6Block, BitVec.setWidth_or, hr, hpp]
  rfl

theorem v6Block_setWidth (pp : Word) (r : Block) (p : Nat) :
    v6Block pp ((r.setWidth 64).setWidth 128) p = v6Block pp r p := by
  rw [v6Block_eq, v6Block_eq, BitVec.setWidth_setWidth_of_le _ (by decide), BitVec.setWidth_eq]

theorem v6Block_or_placedBits (pp : Word) (a : Block) (bits : Nat → BitVec 1) {p : Nat} (hp : p ≤ 128) :
    v6Block pp (a ||| placedBits 128 bits p) p = v6Block pp a p := by
  have hshift : (a ||| placedBits 128 bits p) <<< p = a <<< p := by
    rw [BitVec.shiftLeft_or_distrib, placedBits_shiftLeft hp]
    exact BitVec.or_zero
  rw [v6Block, v6Block, hshift]

/-! ### The loop -/

/-- The loop after `n` iterations, as `v4Loop_eq_or` has it for the IPv4 loop. -/
theorem v6Loop_eq_or (bc : Block → Block) (pp : Word) (a : Block) {n : Nat} (hn : n ≤ 128) :
    v6Loop bc pp a n = a ||| placedBits 128 (fun p => topBit (bc (v6Block pp a p))) n := by
  induction n with
  | zero => exact BitVec.or_zero.symm
  | succ n ih =>
    rw [v6Loop, v6Iteration, ih (by omega), v6Block_or_placedBits pp a _ (by omega), placedBits_succ hn, mergeBit_or]

theorem v6Block_v6Loop (bc : Block → Block) (pp : Word) (a : Block) {p : Nat} (hp : p ≤ 128) :
    v6Block pp (v6Loop bc pp a p) p = v6Block pp a p := by
  rw [v6Loop_eq_or bc pp a hp, v6Block_or_placedBits pp a _ hp]

/-- Settles O36: the block is that of the original address, and each range of positions leaves one part of the
window. -/
theorem v6BlockContent : Obligations.V6BlockContent := by
  intro bc pp a p hp
  rw [v6Block_v6Loop bc pp a (by omega), v6Block_eq]
  split_ifs with h63 h96
  · rw [v6Window_of_le pp _ (by omega)]
  · rw [v6Window_of_mid pp _ (by omega) h96]
    rfl
  · rw [v6Window_of_ge pp _ (by omega)]

/-! ### The oracle bits -/

/-- The bit at an MSB-position is the one placed there. -/
theorem getLsbD_placedBits {w n q : Nat} (bits : Nat → BitVec 1) (hn : n ≤ w) (hq : q < w) :
    (placedBits w bits n).getLsbD (w - 1 - q) = (decide (q < n) && (bits q).getLsbD 0) := by
  induction n with
  | zero => simp [placedBits]
  | succ n ih =>
    rw [placedBits_succ hn, mergeBit, BitVec.getLsbD_or, ih (by omega), BitVec.getLsbD_shiftLeft,
      BitVec.getLsbD_setWidth]
    rcases lt_trichotomy q n with before | rfl | after
    · have habove : (bits n).getLsbD (w - 1 - q - (w - 1 - n)) = false := BitVec.getLsbD_of_ge _ _ (by omega)
      simp [habove, before, Nat.lt_succ_of_lt before]
    · have hin : w - 1 - q < w := by omega
      have hpos : 0 < w := by omega
      simp [hin, hpos]
    · have hbelow : w - 1 - q < w - 1 - n := by omega
      have hge : ¬ q < n + 1 := by omega
      simp [hbelow, hge, Nat.not_lt.mpr (Nat.le_of_lt after)]

/-- The oracle bits by position: bit `p` is that of the block with the window of position `p`. -/
theorem getLsbD_v6Bits (bc : Block → Block) (pp : Word) (x : BitVec 64) {p : Nat} (hp : p ≤ 127) :
    (v6Bits bc pp x).getLsbD (127 - p) =
      (topBit (bc (joinAs 128 (joinAs 64 (pp.extractLsb' 24 8) 0#56) (v6Window pp x p)))).getLsbD 0 := by
  have hlt : p < 128 := by omega
  have hx : (x.setWidth 128).setWidth 64 = x := by simp
  have hbit := getLsbD_placedBits (fun p => topBit (bc (v6Block pp (x.setWidth 128) p))) (le_refl 128) hlt
  rw [v6Block_eq, hx, decide_eq_true hlt, Bool.true_and] at hbit
  exact hbit

/-- Settles O37: the closed form of the loop after all 128 iterations, whose bit at a position is a function of the
window there. -/
theorem v6LoopIsOrOfOracleBits : Obligations.V6LoopIsOrOfOracleBits := by
  intro bc pp
  refine ⟨fun a => ?_, fun x y => ?_, fun x p hlo hhi => ?_⟩
  · rw [v6Image, v6Loop_eq_or bc pp a (le_refl 128)]
    simp only [← v6Block_setWidth pp a]
    rfl
  · apply BitVec.eq_of_getLsbD_eq
    intro i hi
    obtain ⟨p, hp, rfl⟩ : ∃ p, (64 ≤ p ∧ p ≤ 127) ∧ i = 127 - p := ⟨127 - i, by omega, by omega⟩
    rw [BitVec.getLsbD_setWidth, BitVec.getLsbD_setWidth, getLsbD_v6Bits bc pp x hp.2, getLsbD_v6Bits bc pp y hp.2,
      v6Window_of_ge pp x hp.1, v6Window_of_ge pp y hp.1]
  · rw [getLsbD_v6Bits bc pp x (by omega), getLsbD_v6Bits bc pp x (p := 64) (by decide),
      v6Window_of_mid pp x hlo hhi, v6Window_of_mid pp x (le_refl 64) (by decide)]

/-- Settles O38: by O37 the map only sets bits. -/
theorem v6ContainmentAndInjectivity : Obligations.V6ContainmentAndInjectivity := by
  intro bc pp
  have himage := (v6LoopIsOrOfOracleBits bc pp).1
  have contains (a : Block) : v6Image bc pp a &&& a = a := by rw [himage, or_and_left_self]
  refine ⟨contains, ?_, fun hf => eq_self_of_injective_of_contains hf contains⟩
  rw [himage]
  exact BitVec.allOnes_or

end Sys2Proof.Machine
end

section
/-!
PROOF. ANON_V6 in the machine (42_ipv6.md R140 to R146): its acceptance step on 16 bytes, the engine step of `RUN_V6`,
and the 128 steps together.
-/

namespace Sys2Proof.Machine

/-! ### Acceptance -/

/-- ANON_V6 of 16 bytes, idle and with a context, starts the loop (42_ipv6.md R140). -/
theorem exec_anonV6_of_context {s : State} (idle : s.status.busy = false) (ctx : s.status.ctxValid = true) :
    exec (.anonV6 16) s = .next ((s.acceptAddress 0x3#4 16).markFault (s.addressUnwritten 16)).startV6 := by
  rw [exec, ((execAnonV6_cases 16 s).resolve_left (by simp [idle])).2,
    ((State.withContext_cases _ (State.beginV6 16)).resolve_right (by simp [ctx])).2,
    ((State.beginV6_cases _ 16).resolve_right (by simp)).2]
  rfl

/-! ### The engine steps -/

/-- Settles O31: before position 127 the step is the iteration with the next block, at it the delivery. -/
theorem runV6EngineStep : Obligations.RunV6EngineStep := by
  intro s busy phase o bit r
  have hbit : topBit (s.oracle s.blk) = bit := topBit_eq_extractLsb' _
  have hr : s.iterateV6.wr = r := by
    rw [s.iterateV6_writes.1, hbit]
    rfl
  rw [engineStep_runV6 busy phase]
  refine ⟨fun before => ?_, fun last => ⟨s.stepV6, rfl, ?_⟩⟩
  · rw [stepV6_before s before, hr, State.iterateV6]
    simp only [hbit]
    rfl
  · rw [stepV6_last s last, hr]
    simp

section StartedLoop

variable {s : State} (busy : s.status.busy = true)
include busy

/-- Before its last turn the loop keeps `STATUS` (20_memory.md R59). -/
theorem engineRun_startV6_before {n : Nat} (hn : n < 128) :
    ∃ v, engineRun n s.startV6 = .next v ∧ v.status = s.status := by
  obtain ⟨v, hrun, _, _, rfl⟩ := engineRun_v6 s.startV6 s.cur.inSnap busy rfl rfl rfl rfl n (by omega)
  exact ⟨_, hrun, rfl⟩

/-- The 128 turns of a started loop deliver the image. What they leave in the datapath is released, so the state is
that of a delivery right at the start. -/
theorem engineRun_startV6 : engineRun 128 s.startV6 =
    .next (s.startV6.deliver (v6Image s.contextOracle s.pp s.cur.inSnap) 16) := by
  obtain ⟨v, _, _, hrun, rfl⟩ := engineRun_v6_all s.startV6 s.cur.inSnap busy rfl rfl rfl rfl
  exact hrun

end StartedLoop

/-! ### The command -/

/-- Settles O25: the 16 bytes, whatever they hold, start the loop, whose 128 turns deliver the image. -/
theorem anonV6Completes : Obligations.AnonV6Completes := by
  intro s idle ctx
  refine ⟨_, _, exec_anonV6_of_context idle ctx, rfl, fun n hn => ?_, engineRun_startV6 rfl, ?_⟩
  · obtain ⟨v, hrun, hst⟩ := engineRun_startV6_before
      (s := (s.acceptAddress 0x3#4 16).markFault (s.addressUnwritten 16)) rfl hn
    exact ⟨v, hrun, congrArg Status.busy hst, congrArg Status.outValid hst⟩
  · simp [ctx, State.contextOracle]

end Sys2Proof.Machine
end

section
/-!
PROOF. ANON, the dispatcher (43_dispatch.md R160 to R165): the IPv4-mapped form of its operand, what it shares with the
typed command of the operand's class, and the two loops it runs.
-/

namespace Sys2Proof

/-- Two concatenations of the same widths are equal exactly when their parts are. -/
theorem joinAs_inj {n m k : Nat} (hk : n + m = k) {x x' : BitVec n} {y y' : BitVec m} :
    joinAs k x y = joinAs k x' y' ↔ x = x' ∧ y = y' := by
  subst hk
  rw [joinAs, joinAs, BitVec.setWidth_eq, BitVec.setWidth_eq]
  refine ⟨fun h => ⟨?_, ?_⟩, fun ⟨hx, hy⟩ => hx ▸ hy ▸ rfl⟩
  · simpa only [BitVec.extractLsb'_append_eq_left] using congrArg (BitVec.extractLsb' m n) h
  · simpa only [BitVec.extractLsb'_append_eq_right] using congrArg (BitVec.extractLsb' 0 m) h

theorem joinAs_zero {n m k : Nat} (hk : n + m = k) : joinAs k 0#n 0#m = 0#k := by
  subst hk
  rw [joinAs, BitVec.zero_append_zero, BitVec.setWidth_eq]

end Sys2Proof

namespace Sys2Proof.Machine

/-! ### The IPv4-mapped form -/

/-- Two neighbouring sub-strings, the first of `b` bytes, are one sub-string (00_scope.md R10). -/
theorem joinAs_substr {n w v k a b : Nat} (hk : w + v = k) (hb : 8 * b = w) (h : 8 * a + k ≤ n) (s : BitVec n) :
    joinAs k (substr w s a) (substr v s (a + b)) = substr k s a := by
  subst hk
  have hlow : n - 8 * (a + b) - v = n - 8 * a - (w + v) := by omega
  have hhigh : n - 8 * a - w = n - 8 * a - (w + v) + v := by omega
  rw [joinAs, substr, substr, substr, hlow, BitVec.extractLsb'_append_extractLsb'_eq_extractLsb' hhigh,
    BitVec.setWidth_eq]

/-- A sub-string is a concatenation exactly when its first `b` bytes and the bytes after them are the parts. -/
theorem substr_eq_joinAs_iff {n w v k a b : Nat} (hk : w + v = k) (hb : 8 * b = w) (h : 8 * a + k ≤ n) (s : BitVec n)
    (x : BitVec w) (y : BitVec v) :
    substr k s a = joinAs k x y ↔ substr w s a = x ∧ substr v s (a + b) = y := by
  rw [← joinAs_substr hk hb h, joinAs_inj hk]

/-- The first `k` bytes of a string are zero exactly when each of them is. -/
theorem substr_eq_zero_iff {n : Nat} (s : BitVec n) {k : Nat} (h : 8 * k ≤ n) :
    substr (8 * k) s 0 = 0#(8 * k) ↔ ∀ i : Fin k, substr 8 s i.val = 0#8 := by
  induction k with
  | zero => exact iff_of_true (BitVec.eq_nil _) nofun
  | succ k ih =>
    have hk : 8 * k + 8 = 8 * (k + 1) := rfl
    rw [← joinAs_zero hk, substr_eq_joinAs_iff hk rfl (by omega), ih (by omega), Fin.forall_fin_succ', Nat.zero_add]
    rfl

/-- `mapped` is a comparison of the first 12 bytes with one constant (43_dispatch.md R162). -/
theorem mapped_iff_first_bytes (S : Block) : mapped S = true ↔ substr 96 S 0 = 0x0000FFFF#96 := by
  have hbytes : 0x0000FFFF#96 = joinAs 96 (joinAs 88 0#80 0xFF#8) 0xFF#8 := by decide
  rw [hbytes, substr_eq_joinAs_iff (b := 11) (by rfl) (by rfl) (by decide),
    substr_eq_joinAs_iff (b := 10) (by rfl) (by rfl) (by decide)]
  simp [mapped]

/-- The same comparison, word by word. -/
theorem mapped_iff_words (S : Block) :
    mapped S = true ↔ wordAt S 0 = 0 ∧ wordAt S 1 = 0 ∧ wordAt S 2 = 0x0000FFFF#32 := by
  have hwords : 0x0000FFFF#96 = joinAs 96 (joinAs 64 0#32 0#32) 0x0000FFFF#32 := by decide
  rw [mapped_iff_first_bytes, hwords, substr_eq_joinAs_iff (b := 8) (by rfl) (by rfl) (by decide),
    substr_eq_joinAs_iff (b := 4) (by rfl) (by rfl) (by decide), and_assoc]
  rfl

/-- Settles O21: the ten zero bytes are one zero string, and the 12 bytes are three words. -/
theorem mappedPredicate : Obligations.MappedPredicate := by
  refine ⟨fun S => ?_, fun ain => ?_⟩
  · have hzeros : substr 80 S 0 = 0#80 ↔ ∀ i : Fin 10, substr 8 S i.val = 0#8 :=
      substr_eq_zero_iff (k := 10) S (by decide)
    rw [← hzeros]
    simp [mapped, and_assoc]
  · obtain ⟨h0, h1, h2, -⟩ := wordAt_joinWords ain[0] ain[1] ain[2] ain[3]
    rw [mapped_iff_words, inputBuffer, h0, h1, h2]

/-! ### What ANON shares with the typed commands -/

/-- The same state with another latched opcode: what 43_dispatch.md R165 compares ANON's states by. -/
def State.withOp (op : BitVec 4) (s : State) : State := { s with cur := { s.cur with op := op } }

/-- The IPv4 body does not look at the latched opcode. -/
theorem State.beginV4_withOp (s : State) (op : BitVec 4) (len : Nat) :
    (s.withOp op).beginV4 len = (s.beginV4 len).withOp op := by
  have hsnap : (s.withOp op).cur.inSnap = s.cur.inSnap := rfl
  unfold State.beginV4
  simp only [State.markFault_keeps, hsnap]
  cases v4Operand len s.cur.inSnap <;> rfl

/-- Nor does the IPv6 body. -/
theorem State.beginV6_withOp (s : State) (op : BitVec 4) (len : Nat) :
    (s.withOp op).beginV6 len = (s.beginV6 len).withOp op := by
  unfold State.beginV6
  split <;> rfl

section Classes

variable {s : State} {len : Nat}

/-- V4_PLAIN and V4_MAPPED (43_dispatch.md R161). -/
theorem State.beginAnon_of_v4 (h : len = 4 ∨ len = 16 ∧ mapped s.cur.inSnap = true) :
    s.beginAnon len = s.beginV4 len := by
  rcases s.beginAnon_cases len with ⟨_, e⟩ | ⟨hv6, _⟩ | ⟨hbad, _⟩
  · exact e
  · simp [hv6] at h
  · simp [hbad] at h

/-- V6 (43_dispatch.md R161). -/
theorem State.beginAnon_of_v6 (h16 : len = 16) (hm : mapped s.cur.inSnap = false) :
    s.beginAnon len = s.beginV6 len := by
  rcases s.beginAnon_cases len with ⟨hv4, _⟩ | ⟨_, e⟩ | ⟨hbad, _⟩
  · simp [h16, hm] at hv4
  · exact e
  · exact absurd h16 hbad.2

/-- INVALID (43_dispatch.md R161). -/
theorem State.beginAnon_of_invalid (h4 : len ≠ 4) (h16 : len ≠ 16) :
    s.beginAnon len = s.raiseError .invalidAddress := by
  simpa [h4, h16] using s.beginAnon_cases len

/-- A length that is no operand's reads no input byte, so no unwritten word is marked (41_ipv4.md R121). -/
theorem State.beginV4_of_invalid (h4 : len ≠ 4) (h16 : len ≠ 16) :
    s.beginV4 len = s.raiseError .invalidAddress := by
  have hread : s.addressUnwritten len = false := by simp [State.addressUnwritten, h4, h16]
  simpa [h4, h16, v4Operand, hread] using s.beginV4_cases len

/-- Nor does the IPv6 body read one (42_ipv6.md R146). -/
theorem State.beginV6_of_invalid (h16 : len ≠ 16) : s.beginV6 len = s.raiseError .invalidAddress := by
  simpa [h16] using s.beginV6_cases len

end Classes

/-- The context check does not look at the latched opcode: what agrees but for it in the bodies agrees behind the
check, and so does `NO_CONTEXT`. -/
theorem State.withContext_withOp {s : State} {op : BitVec 4} {body body' : State → State}
    (h : body' (s.withOp op) = (body s).withOp op) :
    (s.withOp op).withContext body' = (s.withContext body).withOp op := by
  have hctx : (s.withOp op).status.ctxValid = s.status.ctxValid := rfl
  unfold State.withContext
  rw [hctx]
  split
  · exact h
  · rfl

section Agreement

variable {s : State} (idle : s.status.busy = false) (len : Nat)
include idle

theorem exec_anonV4_of_idle :
    exec (.anonV4 len) s = .next ((s.acceptAddress 0x2#4 len).withContext (State.beginV4 len)) :=
  ((execAnonV4_cases len s).resolve_left (by simp [idle])).2

theorem exec_anonV6_of_idle :
    exec (.anonV6 len) s = .next ((s.acceptAddress 0x3#4 len).withContext (State.beginV6 len)) :=
  ((execAnonV6_cases len s).resolve_left (by simp [idle])).2

/-- Where ANON's body is a typed command's on the accepted operand, so is its acceptance step, with and without a
context. -/
theorem exec_anon_of_body (op : BitVec 4) (body : State → State)
    (hbody : ((s.acceptAddress op len).withOp 0x4#4).beginAnon len = (body (s.acceptAddress op len)).withOp 0x4#4) :
    exec (.anon len) s = .next (((s.acceptAddress op len).withContext body).withOp 0x4#4) := by
  rw [exec, ((execAnon_cases len s).resolve_left (by simp [idle])).2, ← State.withContext_withOp hbody]
  rfl

end Agreement

/-- Settles O27: in each class ANON's body is the typed command's, which does not look at the latched opcode. -/
theorem anonAgreesWithTypedCommands : Obligations.AnonAgreesWithTypedCommands := by
  intro s len idle asAnon
  have anon := exec_anon_of_body idle len
  refine ⟨fun hv4 => ⟨_, exec_anonV4_of_idle idle len, anon 2 (State.beginV4 len) ?_⟩,
    fun h16 hm => ⟨_, exec_anonV6_of_idle idle len, anon 3 (State.beginV6 len) ?_⟩,
    fun h4 h16 => ⟨_, _, exec_anonV4_of_idle idle len, exec_anonV6_of_idle idle len,
      anon 2 (State.beginV4 len) ?_, anon 3 (State.beginV6 len) ?_⟩⟩
  · rw [State.beginAnon_of_v4, State.beginV4_withOp]
    exact hv4
  · rw [State.beginAnon_of_v6 h16, State.beginV6_withOp]
    exact hm
  · rw [State.beginAnon_of_invalid h4 h16, State.beginV4_of_invalid h4 h16]
    rfl
  · rw [State.beginAnon_of_invalid h4 h16, State.beginV6_of_invalid h16]
    rfl

/-! ### The command -/

section Started

variable {s : State} (idle : s.status.busy = false) (ctx : s.status.ctxValid = true)
include idle ctx

/-- ANON on a 4-byte or a mapped operand starts the IPv4 loop, as ANON_V4 does. -/
theorem exec_anon_of_operand {len : Nat} {a : Word} {embed : Bool}
    (operand : v4Operand len (inputBuffer s.ain) = some (a, embed)) :
    exec (.anon len) s =
      .next (((s.acceptAddress 0x4#4 len).markFault (s.addressUnwritten len)).startV4 a embed) := by
  have hv4 : len = 4 ∨ len = 16 ∧ mapped (inputBuffer s.ain) = true := by
    unfold v4Operand at operand
    split_ifs at operand with h4 h16
    exacts [.inl h4, .inr h16]
  obtain ⟨t, typed, agrees⟩ := (anonAgreesWithTypedCommands s len idle).1 hv4
  cases typed.symm.trans (exec_anonV4_of_operand idle ctx operand)
  exact agrees

/-- ANON on any other 16 bytes starts the IPv6 loop, as ANON_V6 does. -/
theorem exec_anon_of_not_mapped (hm : mapped (inputBuffer s.ain) = false) :
    exec (.anon 16) s = .next ((s.acceptAddress 0x4#4 16).markFault (s.addressUnwritten 16)).startV6 := by
  obtain ⟨t, typed, agrees⟩ := (anonAgreesWithTypedCommands s 16 idle).2.1 rfl hm
  cases typed.symm.trans (exec_anonV6_of_context idle ctx)
  exact agrees

end Started

/-- Settles O26: each class starts the loop of its typed command, whose turns deliver the image. -/
theorem anonCompletes : Obligations.AnonCompletes := by
  intro s len idle ctx hlen v4
  rcases hlen with rfl | rfl
  · refine ⟨_, _, exec_anon_of_operand idle ctx (v4Operand_four s.ain),
      fun _ => ⟨engineRun_startV4 rfl _ false, rfl⟩, fun h => absurd (.inl rfl) h, ?_⟩
    simp [ctx, State.contextOracle, v4OutLen, v4Output_eq_joinWords]
  · cases hm : mapped (inputBuffer s.ain)
    · refine ⟨_, _, exec_anon_of_not_mapped idle ctx hm, fun h => absurd h (by simp [v4, hm]),
        fun _ => ⟨engineRun_startV6 rfl, rfl⟩, ?_⟩
      simp [ctx, State.contextOracle]
    · refine ⟨_, _, exec_anon_of_operand idle ctx (v4Operand_sixteen hm),
        fun _ => ⟨engineRun_startV4 rfl _ true, rfl⟩, fun h => absurd (.inr hm) h, ?_⟩
      simp [ctx, State.contextOracle, v4OutLen, v4Output_eq_joinWords]

end Sys2Proof.Machine
end

section
/-!
PROOF. How the acceptance step of an anonymize command ends (60_exceptions.md R181 to R183, R188, R189): one inductive
relation for the three commands, which differ only in the operands they reject and in the operand bytes they consume.
KEYSETUP's endings are those of `State.beginKey_cases`.
-/

namespace Sys2Proof.Machine

/-- The state in which an idle machine ends the acceptance step of an anonymize command, written with opcode `op` and
length `len`: `rejects` says whether the command finds no address in its operand, and `bytes` how many operand bytes it
consumes in a valid context. -/
inductive AddressEnding (s : State) (op : BitVec 4) (len bytes : Nat) (rejects : Prop) : State → Prop
  | noContext (ctx : s.status.ctxValid = false) :
      AddressEnding s op len bytes rejects ((s.acceptAddress op len).raiseError .noContext)
  | invalidAddress (ctx : s.status.ctxValid = true) (bad : rejects) :
      AddressEnding s op len bytes rejects
        (((s.acceptAddress op len).markFault (s.addressUnwritten bytes)).raiseError .invalidAddress)
  | startV4 (ctx : s.status.ctxValid = true) (ok : ¬ rejects) (a : Word) (embed : Bool) :
      AddressEnding s op len bytes rejects
        (((s.acceptAddress op len).markFault (s.addressUnwritten bytes)).startV4 a embed)
  | startV6 (ctx : s.status.ctxValid = true) (ok : ¬ rejects) :
      AddressEnding s op len bytes rejects ((s.acceptAddress op len).markFault (s.addressUnwritten bytes)).startV6

/-! ### Every acceptance step ends in one of these ways -/

theorem v4Operand_eq_none_iff (len : Nat) (b : Block) :
    v4Operand len b = none ↔ len ≠ 4 ∧ len ≠ 16 ∨ len = 16 ∧ mapped b = false := by
  unfold v4Operand
  split_ifs with h4 h16
  · simp [h4]
  · simp [h16]
  · by_cases hlen : len = 16 <;> simp_all

/-- A length that is no operand's marks nothing (60_exceptions.md R203). -/
theorem State.addressUnwritten_of_invalid (s : State) {len : Nat} (h4 : len ≠ 4) (h16 : len ≠ 16) :
    s.addressUnwritten len = false := by
  simp [State.addressUnwritten, h4, h16]

section Endings

variable {s : State} {len : Nat}

theorem AddressEnding.of_withContext {op : BitVec 4} {bytes : Nat} {rejects : Prop} {body : State → State}
    (hbody : s.status.ctxValid = true → AddressEnding s op len bytes rejects (body (s.acceptAddress op len))) :
    AddressEnding s op len bytes rejects ((s.acceptAddress op len).withContext body) := by
  rcases (s.acceptAddress op len).withContext_cases body with ⟨ctx, h⟩ | ⟨ctx, h⟩ <;> rw [h]
  · exact hbody ctx
  · exact .noContext ctx

variable (ctx : s.status.ctxValid = true)
include ctx

/-- The IPv4 body, which ANON enters only with an operand that is not rejected. -/
theorem AddressEnding.of_beginV4 {op : BitVec 4} {rejects : Prop}
    (h : rejects ↔ v4Operand len (inputBuffer s.ain) = none) :
    AddressEnding s op len len rejects ((s.acceptAddress op len).beginV4 len) := by
  rcases (s.acceptAddress op len).beginV4_cases len with ⟨a, embed, hop, e⟩ | ⟨hop, e⟩ <;> rw [e]
  · exact .startV4 ctx (fun bad => nomatch (h.mp bad).symm.trans hop) a embed
  · exact .invalidAddress ctx (h.mpr hop)

theorem AddressEnding.of_beginV6 {op : BitVec 4} :
    AddressEnding s op len (if len = 16 then 16 else 0) (len ≠ 16) ((s.acceptAddress op len).beginV6 len) := by
  rcases (s.acceptAddress op len).beginV6_cases len with ⟨h16, e⟩ | ⟨h16, e⟩ <;> rw [e]
  · rw [if_pos h16]
    exact .startV6 ctx (not_not.mpr h16)
  · have ending : AddressEnding s op len 0 (len ≠ 16) _ := .invalidAddress ctx h16
    rw [s.addressUnwritten_of_invalid (by decide) (by decide), State.markFault_false] at ending
    rwa [if_neg h16]

theorem AddressEnding.of_beginAnon {op : BitVec 4} :
    AddressEnding s op len len (len ≠ 4 ∧ len ≠ 16) ((s.acceptAddress op len).beginAnon len) := by
  rcases (s.acceptAddress op len).beginAnon_cases len with ⟨hv4, e⟩ | ⟨⟨rfl, _⟩, e⟩ | ⟨⟨h4, h16⟩, e⟩ <;> rw [e]
  · refine .of_beginV4 ctx ?_
    rw [v4Operand_eq_none_iff]
    rcases hv4 with rfl | ⟨rfl, hm⟩
    · simp
    · simpa using hm
  · rw [((State.beginV6_cases _ 16).resolve_right (by simp)).2]
    exact .startV6 ctx (by simp)
  · have ending : AddressEnding s op len len (len ≠ 4 ∧ len ≠ 16) _ := .invalidAddress ctx ⟨h4, h16⟩
    rwa [s.addressUnwritten_of_invalid h4 h16, State.markFault_false] at ending

end Endings

section Acceptance

variable {s : State} (idle : s.status.busy = false)
include idle

theorem exec_anonV4_ending (len : Nat) : ∃ t, exec (.anonV4 len) s = .next t ∧
    AddressEnding s 0x2#4 len len (len ≠ 4 ∧ len ≠ 16 ∨ len = 16 ∧ mapped (inputBuffer s.ain) = false) t :=
  ⟨_, exec_anonV4_of_idle idle len,
    .of_withContext fun ctx => .of_beginV4 ctx (v4Operand_eq_none_iff len (inputBuffer s.ain)).symm⟩

theorem exec_anonV6_ending (len : Nat) : ∃ t, exec (.anonV6 len) s = .next t ∧
    AddressEnding s 0x3#4 len (if len = 16 then 16 else 0) (len ≠ 16) t :=
  ⟨_, exec_anonV6_of_idle idle len, .of_withContext fun ctx => .of_beginV6 ctx⟩

theorem exec_anon_ending (len : Nat) : ∃ t, exec (.anon len) s = .next t ∧
    AddressEnding s 0x4#4 len len (len ≠ 4 ∧ len ≠ 16) t :=
  ⟨_, ((execAnon_cases len s).resolve_left (by simp [idle])).2, .of_withContext fun ctx => .of_beginAnon ctx⟩

/-- The three commands together. -/
theorem exec_anonymize_ending {i : Instr} (anonymize : ∀ n, i ≠ .keysetup n) :
    ∃ t bytes rejects, exec i s = .next t ∧ AddressEnding s i.opcode i.len bytes rejects t := by
  cases i with
  | keysetup len => exact absurd rfl (anonymize len)
  | anonV4 len =>
    obtain ⟨t, ht, ending⟩ := exec_anonV4_ending idle len
    exact ⟨t, _, _, ht, ending⟩
  | anonV6 len =>
    obtain ⟨t, ht, ending⟩ := exec_anonV6_ending idle len
    exact ⟨t, _, _, ht, ending⟩
  | anon len =>
    obtain ⟨t, ht, ending⟩ := exec_anon_ending idle len
    exact ⟨t, _, _, ht, ending⟩

end Acceptance

/-- While busy every command is refused (70_reset_and_hazards.md R216). -/
theorem exec_of_busy {s : State} (busy : s.status.busy = true) (i : Instr) : exec i s = .next s.refuse := by
  cases i with
  | keysetup len => exact ((execKeysetup_cases len s).resolve_right (by simp [busy])).2
  | anonV4 len => exact ((execAnonV4_cases len s).resolve_right (by simp [busy])).2
  | anonV6 len => exact ((execAnonV6_cases len s).resolve_right (by simp [busy])).2
  | anon len => exact ((execAnon_cases len s).resolve_right (by simp [busy])).2

/-! ### What an ending leaves -/

namespace AddressEnding

variable {s t : State} {op : BitVec 4} {len bytes : Nat} {rejects : Prop}
  (h : AddressEnding s op len bytes rejects t)
include h

theorem err_eq_noContext_iff : t.status.err = .noContext ↔ s.status.ctxValid = false := by
  cases h with
  | noContext ctx => simp [ctx]
  | invalidAddress ctx bad => simp [ctx]
  | startV4 ctx ok a embed => simp [ctx]
  | startV6 ctx ok => simp [ctx]

theorem err_eq_invalidAddress_iff (ctx : s.status.ctxValid = true) :
    t.status.err = .invalidAddress ↔ rejects := by
  cases h with
  | noContext noCtx => exact absurd (noCtx.symm.trans ctx) nofun
  | invalidAddress _ bad => simp [bad]
  | startV4 _ ok a embed => simp [ok]
  | startV6 _ ok => simp [ok]

/-- No anonymize command writes the Engine Context (10_state.md R33). -/
theorem keeps_context : t.ck = s.ck ∧ t.pad = s.pad ∧ t.pp = s.pp ∧ t.status.ctxValid = s.status.ctxValid ∧
    t.params = s.params := by
  cases h <;> simp

/-- The address words are consumed behind the context check (60_exceptions.md R183). -/
theorem faulted_eq : t.faulted = (s.faulted || (s.status.ctxValid && s.addressUnwritten bytes)) := by
  cases h with
  | noContext ctx => simp [ctx]
  | invalidAddress ctx bad => simp [ctx]
  | startV4 ctx ok a embed => simp [ctx]
  | startV6 ctx ok => simp [ctx]

end AddressEnding

end Sys2Proof.Machine
end

section
/-!
PROOF. The exceptions (60_exceptions.md R180 to R203): when each error is raised and what it leaves, the marks for
unwritten words, the frame of an acceptance step, illegal words, and what a host read can depend on.
-/

namespace Sys2Proof.Machine

/-! ### A write of `CMD` -/

/-- An illegal word that is accepted ends at once (60_exceptions.md R190). -/
theorem writeCmd_of_illegal {s : State} {w : Word} {e : IllegalWord} (idle : s.status.busy = false)
    (hd : decode w = .error e) : writeCmd w s = .next (s.beginCommand.raiseError .illegalCommand) := by
  rw [writeCmd, hd, ← (s.acceptIllegal_cases.resolve_left (by simp [idle])).2]

/-- Settles O10: the oldest move runs, and the decoder accepts its word. -/
theorem stepRunsDecodedCommand : Obligations.StepRunsDecodedCommand := by
  intro s w rest i hm hd
  rw [step_cons s _ rest hm, runMove, busWrite, writeCmd, hd]

/-- Settles O39: the decoder rejects such a word, and an illegal word ends at once. -/
theorem illegalWordCompletesAtOnce : Obligations.IllegalWordCompletesAtOnce := by
  intro s w rest op hm idle hbad
  obtain ⟨e, hd⟩ := (decodeIsTotal w).1 (by omega)
  rw [step_cons s _ rest hm]
  exact writeCmd_of_illegal idle hd

/-! ### The errors of KEYSETUP -/

theorem State.err_beginKey_acceptKey (s : State) (op : BitVec 4) (len : Nat) :
    ((s.acceptKey op len).beginKey len).status.err =
      if len ≠ 64 then .invalidKeyLength
      else if bcKeyOk s.params (substr 256 (keyBuffer s.key) 0) = false then .keyDerivationFailed
      else .none := by
  rcases (s.acceptKey op len).beginKey_cases len with ⟨hlen, h⟩ | ⟨hlen, hbad, h⟩ | ⟨hlen, hok, h⟩ <;> rw [h]
  · simp [hlen]
  · simpa [hlen] using hbad
  · simpa [hlen] using hok

/-- Settles O16: a wrong length ends the command, and no other ending has that code. -/
theorem keysetupWrongLength : Obligations.KeysetupWrongLength := by
  intro s len idle
  rw [exec_keysetup_of_idle idle]
  refine ⟨⟨_, rfl, ?_⟩, fun hlen => ?_⟩
  · rw [State.err_beginKey_acceptKey]
    split_ifs with hlen hbad
    · simp [hlen]
    · simp [not_not.mp hlen]
    · simp [not_not.mp hlen]
  · rw [State.beginKey, if_pos hlen]
    rfl

/-- Settles O17: a rejected key of the right length ends the command behind the split, and no other ending has that
code. -/
theorem keysetupRejectedKey : Obligations.KeysetupRejectedKey := by
  intro s len idle K
  have hck : substr 256 (keyBuffer s.key) 0 = K.extractLsb' 256 256 := rfl
  rw [exec_keysetup_of_idle idle]
  refine ⟨⟨_, rfl, ?_⟩, ?_⟩
  · rw [State.err_beginKey_acceptKey, hck]
    split_ifs with hlen hbad
    · simp [hlen]
    · simp [hbad, not_not.mp hlen]
    · simp [hbad]
  · rintro rfl bad
    have rejected := ((State.beginKey_cases (s.acceptKey 0x1#4 64) 64).resolve_left (by simp)).resolve_right
      fun ok => nomatch bad.symm.trans ok.2.1
    rw [rejected.2.2]
    rfl

/-! ### The errors of the anonymize commands -/

/-- Settles O22: the context check comes first in all three commands. -/
theorem noContextIsRaised : Obligations.NoContextIsRaised := by
  intro s len i op idle hi
  obtain ⟨anonymize, rfl, rfl⟩ : (∀ n, i ≠ .keysetup n) ∧ i.opcode = op ∧ i.len = len := by
    rcases hi with ⟨rfl, rfl⟩ | ⟨rfl, rfl⟩ | ⟨rfl, rfl⟩ <;> exact ⟨nofun, rfl, rfl⟩
  obtain ⟨t, _, _, ht, ending⟩ := exec_anonymize_ending idle anonymize
  refine ⟨⟨t, ht, ending.err_eq_noContext_iff⟩, fun ctx => ?_⟩
  rw [exec_of_noContext idle ctx anonymize]
  simp [State.raiseError, State.acceptAddress, State.beginCommand, ctx]

/-- Settles O23: in a valid context the code says that the operand was rejected. -/
theorem invalidAddressIsRaised : Obligations.InvalidAddressIsRaised := by
  intro s len idle ctx sameContext
  have same {t : State} {op : BitVec 4} {bytes : Nat} {rejects : Prop}
      (ending : AddressEnding s op len bytes rejects t) :
      sameContext t ∧ (t.status.err = .invalidAddress ↔ rejects) := by
    obtain ⟨hck, hpad, hpp, hctx, hparams⟩ := ending.keeps_context
    exact ⟨⟨hck, hpad, hpp, hctx.trans ctx, hparams⟩, ending.err_eq_invalidAddress_iff ctx⟩
  obtain ⟨t₁, ht₁, ending₁⟩ := exec_anonV4_ending idle len
  obtain ⟨t₂, ht₂, ending₂⟩ := exec_anonV6_ending idle len
  obtain ⟨t₃, ht₃, ending₃⟩ := exec_anon_ending idle len
  exact ⟨⟨t₁, ht₁, same ending₁⟩, ⟨t₂, ht₂, same ending₂⟩, t₃, ht₃, same ending₃⟩

/-! ### The marks for unwritten words -/

/-- KEYSETUP consumes the key words behind its length check (60_exceptions.md R183). -/
theorem State.faulted_beginKey_acceptKey (s : State) (op : BitVec 4) (len : Nat) :
    ((s.acceptKey op len).beginKey len).faulted = (s.faulted || (decide (len = 64) && s.keyUnwritten)) := by
  rcases (s.acceptKey op len).beginKey_cases len with ⟨hlen, h⟩ | ⟨hlen, _, h⟩ | ⟨hlen, _, h⟩ <;> rw [h]
  · simp [hlen]
  · simp [hlen, State.keyUnwritten]
  · simp [hlen, State.keyUnwritten]

/-- ANON_V6 consumes words only of a 16-byte operand (60_exceptions.md R203). -/
theorem State.addressUnwritten_anonV6_iff (s : State) (len : Nat) :
    s.addressUnwritten (if len = 16 then 16 else 0) = true ↔ len = 16 ∧ s.addressUnwritten len = true := by
  split_ifs with h16
  · simp [h16]
  · simp [h16, State.addressUnwritten]

/-- Settles O28: each command marks what it consumes, behind its length check or its context check. -/
theorem unwrittenOperandsAreMarked : Obligations.UnwrittenOperandsAreMarked := by
  intro s len idle unwritten
  have hunwritten : s.addressUnwritten len = true ↔ unwritten := s.addressUnwritten_iff len
  obtain ⟨t₁, ht₁, ending₁⟩ := exec_anonV4_ending idle len
  obtain ⟨t₂, ht₂, ending₂⟩ := exec_anonV6_ending idle len
  obtain ⟨t₃, ht₃, ending₃⟩ := exec_anon_ending idle len
  refine ⟨⟨_, exec_keysetup_of_idle idle len, ?_⟩,
    fun ctx => ⟨⟨t₁, ht₁, ?_⟩, ⟨t₂, ht₂, ?_⟩, t₃, ht₃, ?_⟩,
    fun ctx => ⟨⟨t₁, ht₁, ?_⟩, ⟨t₂, ht₂, ?_⟩, t₃, ht₃, ?_⟩⟩
  · simp [State.faulted_beginKey_acceptKey, State.keyUnwritten_iff]
  · simp [ending₁.faulted_eq, ctx, hunwritten]
  · simp [ending₂.faulted_eq, ctx, hunwritten, State.addressUnwritten_anonV6_iff]
  · simp [ending₃.faulted_eq, ctx, hunwritten]
  · simp [ending₁.faulted_eq, ctx]
  · simp [ending₂.faulted_eq, ctx]
  · simp [ending₃.faulted_eq, ctx]

/-! ### The state an error leaves -/

/-- What 60_exceptions.md R191 says of the state `t` after a command that was accepted in `s`. -/
def State.ErrorPrecise (s t : State) : Prop :=
  t.status.err ≠ .none →
    t.status.busy = false ∧ t.status.done = true ∧ t.status.outValid = false ∧ t.status.outLen = 0 ∧
      t.ob = s.ob ∧ t.key = s.key ∧ t.ain = s.ain ∧ t.pp = s.pp ∧
      (t.status.err = .noContext ∨ t.status.err = .invalidAddress →
        t.status.ctxValid = s.status.ctxValid ∧ t.ck = s.ck ∧ t.pad = s.pad) ∧
      (t.status.err = .noContext → t.status.ctxValid = false) ∧
      (t.status.err = .invalidKeyLength → t.status.ctxValid = false ∧ t.ck = s.ck ∧ t.pad = s.pad) ∧
      (t.status.err = .keyDerivationFailed →
        t.status.ctxValid = false ∧ t.ck = (keyBuffer s.key).extractLsb' 256 256 ∧
          t.pad = (keyBuffer s.key).extractLsb' 0 256) ∧
      t.status.err ≠ .illegalCommand

theorem AddressEnding.errorPrecise {s t : State} {op : BitVec 4} {len bytes : Nat} {rejects : Prop}
    (h : AddressEnding s op len bytes rejects t) : s.ErrorPrecise t := by
  cases h with
  | noContext ctx => simp [State.ErrorPrecise, ctx]
  | invalidAddress ctx bad => simp [State.ErrorPrecise]
  | startV4 ctx ok a embed => simp [State.ErrorPrecise]
  | startV6 ctx ok => simp [State.ErrorPrecise]

theorem State.errorPrecise_beginKey (s : State) (op : BitVec 4) (len : Nat) :
    s.ErrorPrecise ((s.acceptKey op len).beginKey len) := by
  rcases (s.acceptKey op len).beginKey_cases len with ⟨_, h⟩ | ⟨_, _, h⟩ | ⟨_, _, h⟩ <;> rw [h]
  · simp [State.ErrorPrecise]
  · simp [State.ErrorPrecise, substr]
  · simp [State.ErrorPrecise]

/-- Settles O40: the endings of each command, and that of an illegal word. -/
theorem errorsArePrecise : Obligations.ErrorsArePrecise := by
  intro s idle
  refine ⟨fun i => ?_, fun w e hd => ⟨_, writeCmd_of_illegal idle hd, by simp⟩⟩
  by_cases key : ∃ len, i = .keysetup len
  · obtain ⟨len, rfl⟩ := key
    exact ⟨_, exec_keysetup_of_idle idle len, s.errorPrecise_beginKey 0x1#4 len⟩
  · obtain ⟨t, _, _, ht, ending⟩ := exec_anonymize_ending idle (not_exists.mp key)
    exact ⟨t, ht, ending.errorPrecise⟩

/-! ### The frame of an acceptance step -/

/-- What 60_exceptions.md R181 and R182 leave unchanged in the acceptance step of `i` from `s` to `t`. -/
def State.FrameKept (s t : State) (i : Instr) : Prop :=
  t.key = s.key ∧ t.ain = s.ain ∧ t.ob = s.ob ∧ t.pp = s.pp ∧ t.oblk = s.oblk ∧ t.bit = s.bit ∧
    t.keyWritten = s.keyWritten ∧ t.ainWritten = s.ainWritten ∧ t.params = s.params ∧
    t.moves = s.moves ∧ t.rdata = s.rdata ∧
    (t.phase ≠ .runV4 → t.phase ≠ .runV6 → t.wr = s.wr ∧ t.blk = s.blk ∧ t.pos = s.pos) ∧
    ((∀ len, i ≠ .keysetup len) →
      t.ck = s.ck ∧ t.pad = s.pad ∧ t.status.ctxValid = s.status.ctxValid ∧ t.cur.keySnap = s.cur.keySnap) ∧
    ((∃ len, i = .keysetup len) → t.cur.inSnap = s.cur.inSnap ∧ t.cur.embed = s.cur.embed) ∧
    (s.status.busy = false → t.refused = s.refused)

theorem State.frameKept_refuse {s : State} (busy : s.status.busy = true) (i : Instr) : s.FrameKept s.refuse i := by
  simp [State.FrameKept, busy]

theorem State.frameKept_beginKey (s : State) (op : BitVec 4) (len : Nat) :
    s.FrameKept ((s.acceptKey op len).beginKey len) (.keysetup len) := by
  rcases (s.acceptKey op len).beginKey_cases len with ⟨_, h⟩ | ⟨_, _, h⟩ | ⟨_, _, h⟩ <;> rw [h]
  all_goals simp [State.FrameKept]

theorem AddressEnding.frameKept {s t : State} {op : BitVec 4} {len bytes : Nat} {rejects : Prop}
    (h : AddressEnding s op len bytes rejects t) {i : Instr} (anonymize : ∀ n, i ≠ .keysetup n) :
    s.FrameKept t i := by
  cases h <;> simp [State.FrameKept, anonymize]

/-- Settles O42: the refusal keeps the frame, and so does every ending of each command. -/
theorem commandFrame : Obligations.CommandFrame := by
  intro s t i h
  change s.FrameKept t i
  cases hb : s.status.busy with
  | true =>
    cases (exec_of_busy hb i).symm.trans h
    exact State.frameKept_refuse hb i
  | false =>
    by_cases key : ∃ len, i = .keysetup len
    · obtain ⟨len, rfl⟩ := key
      cases (exec_keysetup_of_idle hb len).symm.trans h
      exact s.frameKept_beginKey 0x1#4 len
    · obtain ⟨u, _, _, hu, ending⟩ := exec_anonymize_ending hb (not_exists.mp key)
      cases hu.symm.trans h
      exact ending.frameKept (not_exists.mp key)

/-! ### The host's view -/

/-- What a read returns depends on what the host may see (60_exceptions.md R197), and on the count of free values. -/
theorem State.readValue_congr {s₁ s₂ : State} (hstatus : s₁.status = s₂.status) (hain : s₁.ain = s₂.ain)
    (hob : s₁.status.outValid = true → s₁.ob = s₂.ob) (hfree : s₁.freeCount = s₂.freeCount) (r : Reg) :
    s₁.readValue r = s₂.readValue r := by
  cases r with
  | status => exact congrArg statusWord hstatus
  | ain i => exact congrArg (·[i]) hain
  | aout i =>
    unfold State.readValue State.free
    cases hv : s₂.status.outValid with
    | true => simp [hstatus, hv, hob]
    | false => simp [hstatus, hv, hfree]
  | cmd => rfl
  | key i => rfl
  | reserved i => rfl

/-- Settles O48: both reads answer the register's value. -/
theorem hostCannotSeeSecrets : Obligations.HostCannotSeeSecrets := by
  intro s₁ s₂ r rest₁ rest₂ hstatus hain hob hfree h₁ h₂
  exact ⟨_, _, step_read h₁, step_read h₂, State.readValue_congr hstatus hain hob hfree r⟩

end Sys2Proof.Machine
end

section
/-!
PROOF. The reset input (70_reset_and_hazards.md R210, R211).
-/

namespace Sys2Proof.Machine

theorem step_reset {s : State} {rest : List Move} (h : s.moves = .reset :: rest) :
    step s = .next (State.applyReset { s with moves := rest }) :=
  step_cons s _ rest h

/-- Settles O13: the step applies the reset, and the initial state is that of O12. -/
theorem resetInput : Obligations.ResetInput := by
  refine ⟨fun s rest hm => ⟨_, step_reset hm, ?_, rfl, rfl, ?_, ?_, rfl, rfl⟩, resetStateValues⟩
  · exact resetStateValues.1
  · simp
  · simp

/-- Settles O14: the reset leaves the engine idle and no context, so no turn does anything and every anonymize command
ends at its context check. -/
theorem resetAbortsRunningCommand : Obligations.ResetAbortsRunningCommand := by
  intro s rest _ hm
  refine ⟨_, step_reset hm, rfl, rfl, rfl, fun n => engineRun_idle n _ rfl, fun len => ⟨?_, ?_, ?_⟩⟩
  all_goals exact ⟨_, exec_of_noContext rfl rfl nofun, rfl, rfl⟩

end Sys2Proof.Machine
end

section
/-!
PROOF. Writes of `CMD`: while busy they are refused like every operand write (70_reset_and_hazards.md R216), while idle
they end the lifetime of the last result (R218).
-/

namespace Sys2Proof.Machine

/-! ### While busy -/

section Busy

variable {s : State} (busy : s.status.busy = true)
include busy

/-- Whether the word is legal does not matter (60_exceptions.md R190). -/
theorem writeCmd_of_busy (w : Word) : writeCmd w s = .next s.refuse := by
  unfold writeCmd
  cases decode w with
  | ok i => exact exec_of_busy busy i
  | error e => exact congrArg _ (s.acceptIllegal_cases.resolve_right (by simp [busy])).2

theorem busWrite_of_busy {r : Reg} (hr : r = .cmd ∨ (∃ i, r = .key i) ∨ ∃ i, r = .ain i) (v : Word) :
    busWrite r v s = .next s.refuse := by
  rcases hr with rfl | ⟨i, rfl⟩ | ⟨i, rfl⟩
  · exact writeCmd_of_busy busy v
  · exact congrArg _ ((s.writeKey_cases i v).resolve_right (by simp [busy])).2
  · exact congrArg _ ((s.writeAin_cases i v).resolve_right (by simp [busy])).2

end Busy

/-- Settles O43: while busy these writes are refusals, the ignored writes are those of O44, and no read writes the
fields named. -/
theorem busyWritesAreRefused : Obligations.BusyWritesAreRefused := by
  intro s rest v
  refine ⟨fun busy => ⟨fun r hr hm => ?_, exec_of_busy busy⟩, fun r => (ignoredAccesses s r rest).1 v,
    fun r hm => ⟨_, step_read hm, rfl, rfl, rfl⟩⟩
  exact (step_cons s _ rest hm).trans (busWrite_of_busy (s := { s with moves := rest }) busy hr v)

/-! ### While idle -/

theorem AddressEnding.clears_result {s t : State} {op : BitVec 4} {len bytes : Nat} {rejects : Prop}
    (h : AddressEnding s op len bytes rejects t) : t.status.outValid = false ∧ t.status.outLen = 0 := by
  cases h <;> simp

theorem State.beginKey_acceptKey_clears_result (s : State) (op : BitVec 4) (len : Nat) :
    ((s.acceptKey op len).beginKey len).status.outValid = false ∧
      ((s.acceptKey op len).beginKey len).status.outLen = 0 := by
  rcases (s.acceptKey op len).beginKey_cases len with ⟨_, h⟩ | ⟨_, _, h⟩ | ⟨_, _, h⟩ <;> simp [h]

section Idle

variable {s : State} (idle : s.status.busy = false)
include idle

theorem exec_clears_result (i : Instr) :
    ∃ t, exec i s = .next t ∧ t.status.outValid = false ∧ t.status.outLen = 0 := by
  by_cases key : ∃ len, i = .keysetup len
  · obtain ⟨len, rfl⟩ := key
    exact ⟨_, exec_keysetup_of_idle idle len, s.beginKey_acceptKey_clears_result 0x1#4 len⟩
  · obtain ⟨t, _, _, ht, ending⟩ := exec_anonymize_ending idle (not_exists.mp key)
    exact ⟨t, ht, ending.clears_result⟩

theorem writeCmd_clears_result (w : Word) :
    ∃ t, writeCmd w s = .next t ∧ t.status.outValid = false ∧ t.status.outLen = 0 := by
  cases hd : decode w with
  | ok i =>
    rw [writeCmd, hd]
    exact exec_clears_result idle i
  | error e => exact ⟨_, writeCmd_of_illegal idle hd, rfl, rfl⟩

end Idle

/-- Settles O50: an accepted write of `CMD` clears the result, and a step takes only its move off the schedule. -/
theorem acceptanceClearsResult : Obligations.AcceptanceClearsResult := by
  intro s w rest idle hm
  obtain ⟨t, ht, hvalid, hlen⟩ := writeCmd_clears_result (s := { s with moves := rest }) idle w
  have hstep : step s = .next t := (step_cons s _ rest hm).trans ht
  refine ⟨t, hstep, hvalid, hlen, ?_⟩
  rw [step_moves s t hstep, hm, List.tail_cons]

end Sys2Proof.Machine
end

section
/-!
PROOF. How many turns of the engine a command takes (70_reset_and_hazards.md R220, R222). `State.RunsFor` names the
count; one turn adds one to it, which gives the count of each loop from any position.
-/

namespace Sys2Proof.Machine

/-- The engine is busy for exactly `n` turns from `s`, none of which stops. -/
def State.RunsFor (s : State) (n : Nat) : Prop :=
  ∃ u, engineRun n s = .next u ∧ u.status.busy = false ∧
    ∀ k < n, ∃ v, engineRun k s = .next v ∧ v.status.busy = true

/-! ### The counts of the phases -/

theorem State.RunsFor.of_idle {s : State} (idle : s.status.busy = false) : s.RunsFor 0 :=
  ⟨s, rfl, idle, nofun⟩

theorem engineRun_succ_of_engineStep {s t : State} (h : engineStep s = .next t) (n : Nat) :
    engineRun (n + 1) s = engineRun n t := by
  rw [engineRun, h]

/-- A turn of a busy machine counts. -/
theorem State.RunsFor.succ {s t : State} {n : Nat} (busy : s.status.busy = true) (turn : engineStep s = .next t)
    (ht : t.RunsFor n) : s.RunsFor (n + 1) := by
  obtain ⟨u, hrun, idle, before⟩ := ht
  refine ⟨u, (engineRun_succ_of_engineStep turn n).trans hrun, idle, fun k hk => ?_⟩
  cases k with
  | zero => exact ⟨s, rfl, busy⟩
  | succ k =>
    rw [engineRun_succ_of_engineStep turn]
    exact before k (Nat.lt_of_succ_lt_succ hk)

theorem State.RunsFor.of_runKey {s : State} (busy : s.status.busy = true) (phase : s.phase = .runKey) :
    s.RunsFor 1 :=
  .succ busy (engineStep_runKey busy phase) (.of_idle rfl)

/-- `n` turns before the last one of the IPv4 loop. -/
theorem State.RunsFor.of_runV4 {s : State} (busy : s.status.busy = true) (phase : s.phase = .runV4) {n : Nat}
    (pos : s.pos.toNat + n = 31) : s.RunsFor (n + 1) := by
  refine .succ busy (engineStep_runV4 busy phase) ?_
  induction n generalizing s with
  | zero =>
    rw [stepV4_last s (by omega)]
    exact .of_idle rfl
  | succ n ih =>
    have hpos : (s.pos + 1).toNat + n = 31 := by
      rw [toNat_succ_of_lt (by omega)]
      omega
    rw [stepV4_before s (by omega)]
    exact .succ busy (engineStep_runV4 busy phase) (ih busy phase hpos)

/-- `n` turns before the last one of the IPv6 loop. -/
theorem State.RunsFor.of_runV6 {s : State} (busy : s.status.busy = true) (phase : s.phase = .runV6) {n : Nat}
    (pos : s.pos.toNat + n = 127) : s.RunsFor (n + 1) := by
  refine .succ busy (engineStep_runV6 busy phase) ?_
  induction n generalizing s with
  | zero =>
    rw [stepV6_last s (by omega)]
    exact .of_idle rfl
  | succ n ih =>
    have hpos : (s.pos + 1).toNat + n = 127 := by
      rw [toNat_succ_of_lt (by omega)]
      omega
    rw [stepV6_before s (by omega)]
    exact .succ busy (engineStep_runV6 busy phase) (ih busy phase hpos)

/-! ### From a state that meets the invariant -/

theorem State.Inv.exists_runsFor {s : State} (hs : s.Inv) : ∃ n ≤ 128, s.RunsFor n := by
  cases hb : s.status.busy with
  | false => exact ⟨0, by decide, .of_idle hb⟩
  | true =>
    cases hp : s.phase with
    | idle => exact absurd hp (hs.busy_iff.mp hb)
    | runKey => exact ⟨1, by decide, .of_runKey hb hp⟩
    | runV4 =>
      obtain ⟨-, hpos, -⟩ := hs.runV4 hp
      exact ⟨31 - s.pos.toNat + 1, by omega, .of_runV4 hb hp (by omega)⟩
    | runV6 =>
      have hpos := s.pos.isLt
      exact ⟨127 - s.pos.toNat + 1, by omega, .of_runV6 hb hp (by omega)⟩

/-- Settles O55: the phase and the position say how many turns are left. -/
theorem everyCommandCompletes : Obligations.EveryCommandCompletes := by
  intro s hs
  obtain ⟨n, hn, u, hrun, idle, -⟩ := hs.exists_runsFor
  exact ⟨n, hn, u, hrun, idle⟩

/-! ### From the acceptance of a command -/

theorem State.runsFor_beginKey (s : State) (op : BitVec 4) (len : Nat) :
    ((s.acceptKey op len).beginKey len).RunsFor
      (if len = 64 ∧ bcKeyOk s.params (substr 256 (keyBuffer s.key) 0) = true then 1 else 0) := by
  rcases (s.acceptKey op len).beginKey_cases len with ⟨hlen, h⟩ | ⟨hlen, bad, h⟩ | ⟨hlen, ok, h⟩ <;> rw [h]
  · rw [if_neg fun hn => hlen hn.1]
    exact .of_idle rfl
  · rw [if_neg fun hn => nomatch hn.2.symm.trans bad]
    exact .of_idle rfl
  · rw [if_pos ⟨hlen, ok⟩]
    exact .of_runKey rfl rfl

/-- The IPv4 classes of 43_dispatch.md R161 are the operands that have an IPv4 address. -/
theorem v4Operand_ne_none_iff (len : Nat) (b : Block) :
    v4Operand len b ≠ none ↔ len = 4 ∨ len = 16 ∧ mapped b = true := by
  rw [Ne, v4Operand_eq_none_iff]
  by_cases h4 : len = 4
  · simp [h4]
  · by_cases h16 : len = 16 <;> simp [h4, h16]

section Bodies

variable {s : State} (busy : s.status.busy = true) (len : Nat)
include busy

theorem State.runsFor_beginV4 :
    (s.beginV4 len).RunsFor (if len = 4 ∨ len = 16 ∧ mapped s.cur.inSnap = true then 32 else 0) := by
  rcases s.beginV4_cases len with ⟨a, embed, hop, h⟩ | ⟨hop, h⟩ <;> rw [h]
  · rw [if_pos ((v4Operand_ne_none_iff ..).mp (by simp [hop]))]
    refine .of_runV4 (n := 31) ?_ rfl rfl
    exact busy
  · rw [if_neg (mt (v4Operand_ne_none_iff ..).mpr (by simp [hop]))]
    exact .of_idle rfl

theorem State.runsFor_beginV6 : (s.beginV6 len).RunsFor (if len = 16 then 128 else 0) := by
  rcases s.beginV6_cases len with ⟨h16, h⟩ | ⟨h16, h⟩ <;> rw [h]
  · rw [if_pos h16]
    refine .of_runV6 (n := 127) ?_ rfl rfl
    exact busy
  · rw [if_neg h16]
    exact .of_idle rfl

theorem State.runsFor_beginAnon : (s.beginAnon len).RunsFor
    (if len = 4 ∨ len = 16 ∧ mapped s.cur.inSnap = true then 32 else if len = 16 then 128 else 0) := by
  rcases s.beginAnon_cases len with ⟨hv4, h⟩ | ⟨⟨h16, hm⟩, h⟩ | ⟨⟨h4, h16⟩, h⟩ <;> rw [h]
  · simpa [hv4] using State.runsFor_beginV4 busy len
  · simpa [h16, hm] using State.runsFor_beginV6 busy len
  · simpa [h4, h16] using RunsFor.of_idle rfl

end Bodies

/-- A guard of a choice, written into its conditions. -/
theorem ite_and_ite_and {α : Type} (g p q : Prop) [Decidable g] [Decidable p] [Decidable q] (a b c : α) :
    (if g ∧ p then a else if g ∧ q then b else c) = if g then if p then a else if q then b else c else c := by
  by_cases hg : g <;> simp [hg]

/-- Where the context check fails no turn is left. -/
theorem State.runsFor_withContext {s : State} {body : State → State} {n : Nat} (hbody : (body s).RunsFor n) :
    (s.withContext body).RunsFor (if s.status.ctxValid = true then n else 0) := by
  rcases s.withContext_cases body with ⟨ctx, h⟩ | ⟨ctx, h⟩ <;> rw [h]
  · rwa [if_pos ctx]
  · rw [if_neg (by simp [ctx])]
    exact .of_idle rfl

theorem exec_anon_of_idle {s : State} (idle : s.status.busy = false) (len : Nat) :
    exec (.anon len) s = .next ((s.acceptAddress 0x4#4 len).withContext (State.beginAnon len)) :=
  ((execAnon_cases len s).resolve_left (by simp [idle])).2

/-- Settles O41: the acceptance step ends in the body of the command, behind its context check where it has one. -/
theorem engineStepCounts : Obligations.EngineStepCounts := by
  intro s i idle m ok n
  suffices counted : ∃ t, exec i s = .next t ∧ t.RunsFor n by
    obtain ⟨t, ht, u, hrun, hidle, before⟩ := counted
    exact ⟨t, u, ht, hrun, hidle, before⟩
  cases i with
  | keysetup len => exact ⟨_, exec_keysetup_of_idle idle len, s.runsFor_beginKey 0x1#4 len⟩
  | anonV4 len =>
    have runs := State.runsFor_withContext (State.runsFor_beginV4 (s := s.acceptAddress 0x2#4 len) rfl len)
    rw [← ite_and] at runs
    exact ⟨_, exec_anonV4_of_idle idle len, runs⟩
  | anonV6 len =>
    have runs := State.runsFor_withContext (State.runsFor_beginV6 (s := s.acceptAddress 0x3#4 len) rfl len)
    rw [← ite_and] at runs
    exact ⟨_, exec_anonV6_of_idle idle len, runs⟩
  | anon len =>
    have runs := State.runsFor_withContext (State.runsFor_beginAnon (s := s.acceptAddress 0x4#4 len) rfl len)
    rw [← ite_and_ite_and] at runs
    exact ⟨_, exec_anon_of_idle idle len, runs⟩

end Sys2Proof.Machine
end

section
/-!
PROOF. Where a run ends and what is observed there (70_reset_and_hazards.md R225).
-/

namespace Sys2Proof.Machine

theorem State.endsClean_iff (s : State) :
    s.endsClean = true ↔ s.status.busy = false ∧ s.faulted = false ∧ s.refused = false := by
  simp [State.endsClean, and_assoc]

section EndOfRun

variable {s t : State} (h : s.endOfRun = .next t)
include h

theorem State.isFinal_of_endOfRun : s.isFinal = t.endsClean := by
  rw [State.isFinal, h]

theorem State.finalObservation_of_endOfRun :
    s.finalObservation = if s.isFinal then some t.observe else none := by
  rw [State.isFinal_of_endOfRun h, State.finalObservation, h]

end EndOfRun

theorem State.endOfRun_of_lastAccess {s : State} {before after : List Move} {m : Move}
    (hm : s.moves = before ++ m :: after) (access : m.isAccess = true) (last : ∀ x ∈ after, x.isAccess = false) :
    s.endOfRun = stepRun (before.length + 1) s := by
  rw [State.endOfRun, hm, movesToLastAccess_append before m after access last]

theorem State.endOfRun_of_noAccess {s : State} (h : ∀ x ∈ s.moves, x.isAccess = false) : s.endOfRun = .next s := by
  rw [State.endOfRun, movesToLastAccess_none s.moves h, stepRun]

/-- Settles O59: the count of moves to the last access, the moves that so many steps leave, and the state after them. -/
theorem runEndsAtLastAccess : Obligations.RunEndsAtLastAccess := by
  intro s
  refine ⟨fun before m after hm access last => ?_, State.endOfRun_of_noAccess, fun t ht => ⟨?_, ?_⟩⟩
  · have hend := State.endOfRun_of_lastAccess hm access last
    refine ⟨hend, fun t ht => ?_⟩
    rw [stepRun_moves _ s t (hend.symm.trans ht), hm]
    simp
  · rw [State.isFinal_of_endOfRun ht, State.endsClean_iff]
  · exact State.finalObservation_of_endOfRun ht

end Sys2Proof.Machine
end
